-- ==== Sys2Proof/Word.lean ====
section
/-! DEFINITION. The words of the HC810: bytes, 16-bit fields, the numbers of bays, slots, blocks and event sources,
and the small types a command's operands are written in. -/

namespace Sys2Proof

abbrev Byte := BitVec 8
abbrev Word16 := BitVec 16

/-- Bays 0 to 7 (00_scope.md, Terms). -/
abbrev BayNo := Fin 8

/-- The 32 job slots (05, section 5.1). -/
abbrev SlotNo := Fin 32

/-- The 48 buffer blocks (05, section 5.3). -/
abbrev BlockNo := Fin 48

/-- The nine event sources, numbered as R188 encodes them: 0 to 7 the bays, 8 the device. -/
abbrev SourceNo := Fin 9

/-- Time in units of 10 µs, the finest unit of any duration the spec gives (R178, byte timeout). -/
abbrev Ticks := Nat

/-- High byte of a 16-bit field; multi-byte fields are sent high byte first (R186, R192). -/
def hi (w : Word16) : Byte := (w >>> 8).setWidth 8

def lo (w : Word16) : Byte := w.setWidth 8

/-- The 16-bit field whose high byte comes first. -/
def word (h l : Byte) : Word16 := (h.setWidth 16 <<< 8) ||| l.setWidth 16

/-- The causes of a hardware reset (R134). -/
inductive ResetCause where
  | powerOn | resetPin | restartRequest
  deriving DecidableEq, Repr

/-- The three debounced inputs of a bay (R2). -/
inductive SideLine where
  | presence | latch | attention
  deriving DecidableEq, Repr

/-- A piece of work on the Module Bus (R60): a host job, named by its slot, or the identity read of a bay. -/
inductive Work where
  | job (slot : SlotNo)
  | identity (bay : BayNo)
  deriving DecidableEq, Repr

/-- MB_CMD and MB_D as the sender of a byte drives them (R52). -/
structure BusByte where
  cmd : Bool
  data : Byte
  deriving DecidableEq, Repr

end Sys2Proof
end

