-- ==== Sys2Proof/Config.lean ====
section
/-! DEFINITION. What is fixed for the part or set by the host: the configuration records with their defaults
(R178, R179), the part's own codes (R192), and the free value the spec leaves open. -/

namespace Sys2Proof

/-- What a latch opening on a powered module does (R4, R24, R25). -/
inductive LatchAction where
  | orderly | immediate
  deriving DecidableEq, Repr

/-- What a press of the attention button asks for (R47). -/
inductive AttentionAction where
  | nothing | togglePower
  deriving DecidableEq, Repr

/-- The bay configuration record, each item in the units it is written in (R178). -/
structure BayConfig where
  powerUp : Byte
  settle : Byte
  discharge : Byte
  byteTimeout : Byte
  turnaround : Byte
  faultLimit : Byte
  latchAction : LatchAction
  attentionAction : AttentionAction
  holdOff : Byte
  notifyMask : Byte
  deriving DecidableEq, Repr

/-- The defaults of R178: 200 ms, 20 ms, 500 ms, 100 µs, 1.0 ms, 3, ORDERLY, NONE, 5 s, all eight bits. -/
def BayConfig.atReset : BayConfig :=
  { powerUp := 20, settle := 20, discharge := 50, byteTimeout := 10, turnaround := 10, faultLimit := 3,
    latchAction := .orderly, attentionAction := .nothing, holdOff := 5, notifyMask := 0xFF }

/-- The link configuration (R179): notice ack timeout in ms, notice retry limit. -/
structure LinkConfig where
  ackTimeout : Word16
  retryLimit : Byte
  deriving DecidableEq, Repr

/-- The defaults of R179. -/
def LinkConfig.atReset : LinkConfig := { ackTimeout := 40, retryLimit := 4 }

/-- The final statuses of a job (R194). -/
inductive JobStatus where
  | done | canceled | expired | byteTimeout | turnTimeout | protocol | overrun
  | bayOff | bayReset | bayGone | latchOpen | bayFault
  deriving DecidableEq, Repr, Inhabited

/-- FREE VALUE. The final status of a host job that ends ABORTED or ABANDONED without an abort mark. R122 says that
this does not meet, and gives no status for it. Assumption log 5. -/
opaque Config.unmarkedStatus : Nat → JobStatus

/-- FREE VALUE. The levels of LRATE[1:0] as the hardware reset that follows a RESTART's reply samples them (R148, R161): the
straps are inputs that may change between resets, and no command of the table says what they then stand at. Assumption
log 17. -/
opaque Config.restartStraps : Nat → BitVec 2

/-- The family code, revision and bay count carried in the OPEN reply (R158, R192). -/
def Config.familyCode : Word16 := 0x0810

def Config.revision : Byte := 0x01

def Config.bayCount : Byte := 0x08

end Sys2Proof
end

