-- ==== Sys2Proof/Syntax.lean ====
section
/-! DEFINITION. The commands of the HC810: one constructor per row of spec/opcode_table.json, in the table's order.
The operands are the model's (the table gives none): a bay, a slot, a line level, a frame's SEQ and payload. -/

namespace Sys2Proof

/-- The commands. Requests carry the SEQ and the payload of the frame that brings them (R154); the four rows of
BAY-COMMAND carry the SEQ and the bay byte, their command byte being the row itself (R188). -/
inductive Instr where
  | hardwareReset (cause : ResetCause) (straps : BitVec 2)
  | sidebandLineEdge (bay : BayNo) (line : SideLine) (asserted : Bool)
  | presenceAssert (bay : BayNo)
  | presenceLoss (bay : BayNo)
  | latchChange (bay : BayNo)
  | attentionPress (bay : BayNo)
  | attentionRelease (bay : BayNo)
  | pgoodRise (bay : BayNo)
  | pgoodFall (bay : BayNo)
  | pfaultAssert (bay : BayNo)
  | srqChange (bay : BayNo) (asserted : Bool)
  | powerUpExpiry (bay : BayNo)
  | settleExpiryPowering (bay : BayNo)
  | resetPulseExpiry (bay : BayNo)
  | settleExpiryResetting (bay : BayNo)
  | dischargeExpiry (bay : BayNo)
  | holdOffExpiry (bay : BayNo)
  | blinkToggle
  | powerOn (seq bay : Byte)
  | powerOff (seq bay : Byte)
  | resetModule (seq bay : Byte)
  | clearFault (seq bay : Byte)
  | indicate (seq : Byte) (payload : List Byte)
  | bayStatus (seq : Byte) (payload : List Byte)
  | bayIdentity (seq : Byte) (payload : List Byte)
  | grant
  | mbAckRise (lines : BusByte)
  | mbAckFall
  | mbRevackRise (lines : BusByte)
  | mbRevackFall
  | byteTimerExpiry
  | turnaroundTimerExpiry
  | heldTimerExpiry
  | abortRequest (work : Work)
  | abandonRequest (work : Work)
  | releaseReport (bay : BayNo)
  | liveCountReport (bay : BayNo)
  | timeoutAccountingReport (bay : BayNo)
  | busFaultReport (bay : BayNo)
  | identityEndingReport (bay : BayNo)
  | jobEndingReport (slot : SlotNo)
  | deadlineExpiry (slot : SlotNo)
  | submit (seq : Byte) (payload : List Byte)
  | cancel (seq : Byte) (payload : List Byte)
  | jobStatus (seq : Byte) (payload : List Byte)
  | eventRaise (source : SourceNo)
  | clearEvents (seq : Byte) (payload : List Byte)
  | setBayConfig (seq : Byte) (payload : List Byte)
  | getBayConfig (seq : Byte) (payload : List Byte)
  | setLinkConfig (seq : Byte) (payload : List Byte)
  | getLinkConfig (seq : Byte) (payload : List Byte)
  | getCounters (seq : Byte) (payload : List Byte)
  | linkRxByte (char : Byte)
  | gapExpiry
  | openSession (seq : Byte) (payload : List Byte)
  | closeSession (seq : Byte) (payload : List Byte)
  | restart (seq : Byte) (payload : List Byte)
  | ping (seq : Byte) (payload : List Byte)
  | ack (seq : Byte) (payload : List Byte)
  | unknownRequest (kind seq : Byte) (payload : List Byte)
  | frameSent
  | ackTimerExpiry
  | pfaultDeassert (bay : BayNo)
  deriving DecidableEq, Repr

end Sys2Proof
end

