-- ==== Sys2Proof/Machine/Timing.lean ====
section
/-! DEFINITION. Durations in units of 10 µs: the fixed ones (10, section 10.1; R2, R39, R46, R75, R151), the configured
ones (R178, R179) and the time a frame takes on LINK_TX (R148). -/

namespace Sys2Proof.Machine

/-- Milliseconds in units of 10 µs. -/
def ms (n : Nat) : Ticks := 100 * n

/-- 16 ms (R2). -/
def debounceTime : Ticks := ms 16

/-- 1 ms (R39). -/
def resetPulseTime : Ticks := ms 1

/-- 10 ms (R75). -/
def heldTime : Ticks := ms 10

/-- 5 ms (R151). -/
def gapTime : Ticks := ms 5

/-- 250 ms (R46). -/
def blinkTime : Ticks := ms 250

def powerUpTime (c : BayConfig) : Ticks := ms (10 * c.powerUp.toNat)

def settleTime (c : BayConfig) : Ticks := ms c.settle.toNat

def dischargeTime (c : BayConfig) : Ticks := ms (10 * c.discharge.toNat)

/-- Units of 10 µs (R178). -/
def byteTime (c : BayConfig) : Ticks := c.byteTimeout.toNat

/-- Units of 0.1 ms (R178). -/
def turnaroundTime (c : BayConfig) : Ticks := 10 * c.turnaround.toNat

/-- Units of 1 s (R178). -/
def holdOffTime (c : BayConfig) : Ticks := ms (1000 * c.holdOff.toNat)

def ackTime (c : LinkConfig) : Ticks := ms c.ackTimeout.toNat

/-- A time remaining as a reply reports it: whole milliseconds, rounded up, never 0 while the timer runs (R189). -/
def remainingMs (t : Ticks) : Word16 := BitVec.ofNat 16 (max 1 ((t + 99) / 100))

/-- The Carrier Link rate in bit/s by LRATE[1:0] (08, section 8.1). -/
def linkRate (straps : BitVec 2) : Nat :=
  match straps.toNat with
  | 0 => 115200
  | 1 => 460800
  | 2 => 1000000
  | _ => 3000000

/-- The time of a frame of n characters of 10 bits each, back to back (R148, R164), rounded up. -/
def frameTime (straps : BitVec 2) (n : Nat) : Ticks :=
  (n * 10 * 100000 + linkRate straps - 1) / linkRate straps

end Sys2Proof.Machine
end

