-- ==== Sys2Proof/Machine/State.lean ====
section
/-! DEFINITION. The state of the HC810, block by block (00_scope.md, How the part is organised), as plain data, and its
value right after a power-on reset. Lines are held as "asserted" (01: BAYn_PRES_n low, BAYn_LATCH high, …). -/

namespace Sys2Proof.Machine

/-- The nine bay states (01, section 1.3). -/
inductive BayState where
  | empty | present | powering | identifying | active | resetting | draining | poweringDown | faulted
  deriving DecidableEq, Repr

/-- The power-up phase, held in POWERING (R13, R14). -/
inductive PowerPhase where
  | ramp | settle
  deriving DecidableEq, Repr

/-- The reset phase, held in RESETTING (R37). -/
inductive ResetPhase where
  | waitBus | pulse | settle
  deriving DecidableEq, Repr

/-- The stage of a bay's identity read (04, section 4.1). -/
inductive ReadStage where
  | noRead | candidate | onBus | leaving
  deriving DecidableEq, Repr

/-- The long commands (R30). -/
inductive LongCommand where
  | powerOn | powerOff | resetModule
  deriving DecidableEq, Repr

inductive Origin where
  | link | button
  deriving DecidableEq, Repr

inductive CommandResult where
  | completed | failed | superseded
  deriving DecidableEq, Repr

/-- The causes of R12. -/
inductive FaultCause where
  | power | powerUp | discharge | identity | bus
  deriving DecidableEq, Repr

inductive HoldOffTarget where
  | off | on
  deriving DecidableEq, Repr

/-- An indicator's setting (R44). -/
inductive Setting where
  | off | on | blink | auto
  deriving DecidableEq, Repr

/-- An indicator's driven value (R46). -/
inductive Driven where
  | off | on | blink
  deriving DecidableEq, Repr

structure PendingCommand where
  command : LongCommand
  origin : Origin
  deriving DecidableEq, Repr

structure LastResult where
  command : LongCommand
  origin : Origin
  result : CommandResult
  deriving DecidableEq, Repr

structure HoldOff where
  target : HoldOffTarget
  left : Ticks
  deriving DecidableEq, Repr

structure Indicator where
  setting : Setting
  driven : Driven
  deriving DecidableEq, Repr

/-- The stored identity (R85). -/
structure Identity where
  moduleClass : Word16
  revision : Byte
  channelMap : Word16
  serial : List Byte
  deriving DecidableEq, Repr

/-- The bay record (01, section 1.1), the bay's timers (R9), debounce counts (R2) and lines. -/
@[ext] structure Bay where
  state : BayState
  powerPhase : Option PowerPhase
  resetPhase : Option ResetPhase
  read : ReadStage
  presence : Bool
  latchClosed : Bool
  pressed : Bool
  service : Bool
  pending : Option PendingCommand
  lastResult : Option LastResult
  cause : Option FaultCause
  holdOff : Option HoldOff
  powerLed : Indicator
  attnLed : Indicator
  identity : Option Identity
  timeouts : Nat
  liveJobs : Nat
  powerUpTimer : Option Ticks
  settleTimer : Option Ticks
  dischargeTimer : Option Ticks
  pulseTimer : Option Ticks
  presenceCount : Option Ticks
  latchCount : Option Ticks
  attnCount : Option Ticks
  presenceLine : Bool
  latchLine : Bool
  attnLine : Bool
  pgood : Bool
  pfault : Bool
  pen : Bool
  mrst : Bool
  deriving DecidableEq, Repr

/-- A bay right after a reset that finds every line of the bay inactive (R1; assumption log 2). -/
def Bay.atReset : Bay :=
  { state := .empty, powerPhase := none, resetPhase := none, read := .noRead, presence := false,
    latchClosed := false, pressed := false, service := false, pending := none, lastResult := none, cause := none,
    holdOff := none, powerLed := ⟨.auto, .off⟩, attnLed := ⟨.auto, .off⟩, identity := none, timeouts := 0,
    liveJobs := 0, powerUpTimer := none, settleTimer := none, dischargeTimer := none, pulseTimer := none,
    presenceCount := none, latchCount := none, attnCount := none, presenceLine := false, latchLine := false,
    attnLine := false, pgood := false, pfault := false, pen := false, mrst := true }

/-- The engine states (03, section 3.4). -/
inductive EngineState where
  | idle | forward | turning | reverse | turningBack | aborting | held
  deriving DecidableEq, Repr

/-- The endings of a message (R60). -/
inductive Ending where
  | done | byteTimeout | turnTimeout | protocol | overrun | aborted | abandoned
  deriving DecidableEq, Repr

inductive AbortStep where
  | finishByte | sendAbort | waitLines
  deriving DecidableEq, Repr

/-- The piece the forward coder is sending (R61, R65), or the ABORT of R71. -/
inductive ForwardItem where
  | channel | repeatCount (n : Nat) | data (weight : Nat) | endMark | abort
  deriving DecidableEq, Repr

/-- Where the four edges of the byte in hand stand (R55, R56). `due`: a forward byte waits for MB_ACK to fall before
MB_STB rises. `strobed`: MB_STB is high. `acked`: MB_ACK rose, MB_STB dropped. `offer`: the offer wait. `taken`,
`takenEnd`: a reverse byte, or the module's END, was taken and MB_STB is high. -/
inductive Handshake where
  | none | due | strobed | acked | offer | taken | takenEnd
  deriving DecidableEq, Repr

/-- What the engine reads from the work at selection (R60, R118). -/
structure Message where
  channel : Byte
  exchange : Bool
  compress : Bool
  outData : List Byte
  inLimit : Nat
  deriving DecidableEq, Repr

/-- The engine record (R60), its timers, and the Module Bus lines (R52). `modByte` is MB_CMD and MB_D as the module
last drove them. -/
@[ext] structure Engine where
  state : EngineState
  work : Option Work
  selected : Option BayNo
  ending : Option Ending
  abortStep : Option AbortStep
  bytesOut : Nat
  bytesIn : Nat
  message : Message
  position : Nat
  item : Option ForwardItem
  handshake : Handshake
  pendingRepeat : Option Nat
  identityBuffer : List Byte
  lastUsed : Option BayNo
  heldTimer : Option Ticks
  byteTimer : Option Ticks
  turnTimer : Option Ticks
  sel : BitVec 3
  selv : Bool
  stb : Bool
  rev : Bool
  drive : Option BusByte
  ack : Bool
  revack : Bool
  modByte : BusByte
  deriving DecidableEq, Repr

/-- The engine right after a reset that finds MB_ACK and MB_REVACK low (R60, R53; assumption log 2). -/
def Engine.atReset : Engine :=
  { state := .idle, work := none, selected := none, ending := none, abortStep := none, bytesOut := 0, bytesIn := 0,
    message := ⟨0, false, false, [], 0⟩, position := 0, item := none, handshake := .none, pendingRepeat := none,
    identityBuffer := [], lastUsed := none, heldTimer := none, byteTimer := none, turnTimer := none, sel := 0,
    selv := false, stb := false, rev := false, drive := none, ack := false, revack := false, modByte := ⟨false, 0⟩ }

/-- The slot states (05, section 5.1). -/
inductive SlotState where
  | free | waiting | active | donePending | doneSent
  deriving DecidableEq, Repr

inductive JobKind where
  | write | exchange
  deriving DecidableEq, Repr

/-- The abort marks of a job (05, section 5.1). -/
inductive AbortMark where
  | cancel | bayReset | latchOpen | bayFault | bayGone
  deriving DecidableEq, Repr

/-- The job record of a slot (05, section 5.1). -/
@[ext] structure Slot where
  state : SlotState
  tag : Word16
  bay : BayNo
  channel : Byte
  kind : JobKind
  compress : Bool
  outLength : Nat
  inLimit : Option Nat
  deadline : Option Ticks
  blocks : List BlockNo
  mark : Option AbortMark
  orphan : Bool
  final : Option JobStatus
  bytesOut : Nat
  bytesIn : Nat
  deriving DecidableEq, Repr

/-- A FREE slot: every field cleared (R90). -/
def Slot.free : Slot :=
  { state := .free, tag := 0, bay := 0, channel := 0, kind := .write, compress := false, outLength := 0,
    inLimit := none, deadline := none, blocks := [], mark := none, orphan := false, final := none, bytesOut := 0,
    bytesIn := 0 }

/-- The Job Table: slots, one queue per bay (R102), and the bytes of the buffer pool in canonical form. -/
@[ext] structure JobTable where
  slots : Vector Slot 32
  queues : Vector (List SlotNo) 8
  pool : List Host.Cell
  deriving DecidableEq, Repr

inductive NoticeStage where
  | noNotice | pending | sent
  deriving DecidableEq, Repr

/-- The content of an event notice as first sent (R140). -/
inductive Capture where
  | bay (bay : BayNo) (set : Byte) (state : BayState) (last : Option LastResult) (cause : Option FaultCause)
  | device (set : Byte) (cause : ResetCause)
  deriving DecidableEq, Repr

/-- The record of an event source (07, section 7.1), but for the notify mask: a bay's is in its configuration record
and the device's is fixed (R136, R137). -/
@[ext] structure SourceRecord where
  set : Byte
  stage : NoticeStage
  renotify : Bool
  capture : Option Capture
  deriving DecidableEq, Repr

def SourceRecord.atReset : SourceRecord := { set := 0, stage := .noNotice, renotify := false, capture := none }

@[ext] structure Reporter where
  sources : Vector SourceRecord 9
  resetCause : ResetCause
  deriving DecidableEq, Repr

inductive LinkState where
  | down | up | stalled
  deriving DecidableEq, Repr

/-- A frame without its SYNC, LEN and CRC, which the other fields determine (R186). -/
structure Frame where
  kind : Byte
  seq : Byte
  payload : List Byte
  deriving DecidableEq, Repr

/-- A reply waiting for LINK_TX. `restart` marks the reply of the RESTART that ended the session (R161). -/
structure QueuedReply where
  frame : Frame
  restart : Bool
  deriving DecidableEq, Repr

structure CacheEntry where
  seq : Byte
  reply : Frame
  deriving DecidableEq, Repr

/-- The Request Handler (R152). The cache is kept oldest first, the reply queue head first. -/
@[ext] structure Handler where
  link : LinkState
  session : Word16
  nonce : Option Word16
  cache : List CacheEntry
  replies : List QueuedReply
  deriving DecidableEq, Repr

/-- The frame being sent on LINK_TX and the time left of it (R164). -/
structure Sending where
  frame : Frame
  notice : Bool
  restart : Bool
  left : Ticks
  deriving DecidableEq, Repr

/-- The Link Port: the assembly buffer (the bytes from a SYNC onward, empty while searching; R149), the gap timer,
the accepted frames the Request Handler has not taken yet (R150), the frame being sent, the rate in use and the strap
levels it was sampled from (R148). -/
@[ext] structure LinkPort where
  buffer : List Byte
  gapTimer : Option Ticks
  arrivals : List Frame
  sending : Option Sending
  rate : BitVec 2
  straps : BitVec 2
  deriving DecidableEq, Repr

/-- A notice names its slot or its source and carries no data (09, section 9.1). -/
inductive Notice where
  | jobDone (slot : SlotNo)
  | event (source : SourceNo)
  deriving DecidableEq, Repr

structure Unacked where
  notice : Notice
  number : Byte
  due : Bool
  deriving DecidableEq, Repr

/-- The Notice Transmitter (09, section 9.1), both lists head first. -/
@[ext] structure Transmitter where
  pending : List Notice
  unacked : List Unacked
  next : Byte
  retries : Nat
  ackTimer : Option Ticks
  deriving DecidableEq, Repr

@[ext] structure ConfigStore where
  bays : Vector BayConfig 8
  link : LinkConfig
  deriving DecidableEq, Repr

/-- The five counters of a bay (R183). -/
@[ext] structure BayCounters where
  jobsDone : Word16
  jobsEnded : Word16
  timeouts : Word16
  powerFaults : Word16
  presses : Word16
  deriving DecidableEq, Repr

def BayCounters.zero : BayCounters := ⟨0, 0, 0, 0, 0⟩

/-- The six counters of the device (R184). -/
@[ext] structure DeviceCounters where
  accepted : Word16
  discarded : Word16
  duplicates : Word16
  dropped : Word16
  retransmitted : Word16
  staleAcks : Word16
  deriving DecidableEq, Repr

def DeviceCounters.zero : DeviceCounters := ⟨0, 0, 0, 0, 0, 0⟩

@[ext] structure Counters where
  bays : Vector BayCounters 8
  device : DeviceCounters
  deriving DecidableEq, Repr

/-- The common blink cycle (R46). -/
structure Blink where
  lit : Bool
  left : Ticks
  deriving DecidableEq, Repr

/-- What one block has handed another and the receiver has not taken yet (R11, R74, R91, R135). `earlier` says that the bay
has been granted a new identity read since the report was handed, so that the report is of a message before that read (R87,
R133; assumption log 18). -/
inductive Report where
  | abortRequest (work : Work)
  | release (bay : BayNo) (earlier : Bool)
  | liveCount (bay : BayNo) (count : Nat) (fell : Bool)
  | timeoutAccounting (bay : BayNo) (ending : Ending)
  | busFault (bay : BayNo)
  | identityEnding (bay : BayNo) (ending : Ending) (bytesIn : Nat) (buffer : List Byte) (earlier : Bool)
  | jobEnding (slot : SlotNo) (ending : Ending) (bytesOut bytesIn : Nat)
  | raise (source : SourceNo) (bits : Byte)
  deriving DecidableEq, Repr

/-- The state of the HC810. `pending` is the queue of commands that wait, `handed` the reports on their way, oldest
first, and `freeDraws` the number of free values drawn (assumption logs 5, 17). -/
@[ext]
structure State where
  pending : List Instr
  bays : Vector Bay 8
  engine : Engine
  jobs : JobTable
  lastServed : BayNo
  reporter : Reporter
  handler : Handler
  port : LinkPort
  transmitter : Transmitter
  config : ConfigStore
  counters : Counters
  blink : Blink
  handed : List Report
  freeDraws : Nat
  deriving DecidableEq, Repr

/-- The reasons a command can stop the machine: there are none. Every row of the table has an effect by the spec or
leaves the state as it is, so no meaning answers a fault (INVENTORY.md, Faults). Safe: nothing is hidden by a stop. -/
inductive Fault where
  deriving DecidableEq, Repr

/-- No command of the HC810 is refused; the one constructor is the interface's. -/
inductive Refusal where
  /-- Raised by an arm of exec that has no meaning yet; there is none. Safe: the machine stops. -/
  | notModelled (mnemonic : String)
  deriving DecidableEq, Repr

/-- The machine right after a power-on reset with every input line inactive and the straps at 00b (R1, R53, R60, R90,
R115, R134, R148, R152, R167, R178, R179, R183; assumption log 2). -/
def State.reset : State :=
  { pending := [],
    bays := Vector.replicate 8 Bay.atReset,
    engine := Engine.atReset,
    jobs := { slots := Vector.replicate 32 Slot.free, queues := Vector.replicate 8 [], pool := [] },
    lastServed := 7,
    reporter :=
      { sources := (Vector.replicate 9 SourceRecord.atReset).set 8 { SourceRecord.atReset with set := 0x01 },
        resetCause := .powerOn },
    handler := { link := .down, session := 0, nonce := none, cache := [], replies := [] },
    port := { buffer := [], gapTimer := none, arrivals := [], sending := none, rate := 0, straps := 0 },
    transmitter := { pending := [], unacked := [], next := 0, retries := 0, ackTimer := none },
    config := { bays := Vector.replicate 8 BayConfig.atReset, link := LinkConfig.atReset },
    counters := { bays := Vector.replicate 8 BayCounters.zero, device := DeviceCounters.zero },
    blink := { lit := true, left := blinkTime },
    handed := [],
    freeDraws := 0 }

end Sys2Proof.Machine
end

