-- ==== Sys2Proof/Machine/Flags.lean ====
section
/-! DEFINITION. Event bits (R188), status codes (R194), the encodings of R188, and counters that stop at 65535 (R183). -/

namespace Sys2Proof.Machine

/-! ## Event bits -/

def PRESENCE : Byte := 0x01
def LATCH : Byte := 0x02
def ATTENTION : Byte := 0x04
def COMMAND : Byte := 0x08
def FAULT : Byte := 0x10
def SURPRISE : Byte := 0x20
def UNSAFE_LATCH : Byte := 0x40
def SERVICE : Byte := 0x80

def RESTARTED : Byte := 0x01
def BUS_HELD : Byte := 0x02
def BUS_RELEASED : Byte := 0x04

/-- The device's three bits: its event set and its fixed notify mask (R136). -/
def deviceMask : Byte := 0x07

/-- The device among the event sources (R188). -/
def deviceSource : SourceNo := 8

def baySource (b : BayNo) : SourceNo := b.castLE (by decide)

/-- The bits, or none where the condition does not hold. -/
def bitsIf (c : Bool) (bits : Byte) : Byte := if c then bits else 0

/-! ## Counters -/

/-- A counter advances by 1 and stops at 65535 (R183). -/
def advance (c : Word16) : Word16 := if c = 0xFFFF then c else c + 1

/-! ## Reply statuses -/

/-- The reply statuses of R194. -/
inductive Status where
  | ok | accepted | noSession | unknownRequest | badLength | badArgument | wrongState | bayBusy | latchOpen
  | noModule | powerPresent | noSlot | noBuffer | queueFull | noChannel | tagInUse | notFound | tooLate
  deriving DecidableEq, Repr

def Status.code : Status → Byte
  | .ok => 0x00
  | .accepted => 0x01
  | .noSession => 0x10
  | .unknownRequest => 0x11
  | .badLength => 0x12
  | .badArgument => 0x13
  | .wrongState => 0x20
  | .bayBusy => 0x21
  | .latchOpen => 0x22
  | .noModule => 0x23
  | .powerPresent => 0x24
  | .noSlot => 0x30
  | .noBuffer => 0x31
  | .queueFull => 0x32
  | .noChannel => 0x33
  | .tagInUse => 0x34
  | .notFound => 0x35
  | .tooLate => 0x36

/-- A reply with status OK or ACCEPTED carries its reply fields, any other the status byte alone (R189). -/
def Status.granted : Status → Bool
  | .ok => true
  | .accepted => true
  | _ => false

def jobStatusCode : JobStatus → Byte
  | .done => 0x00
  | .canceled => 0x01
  | .expired => 0x02
  | .byteTimeout => 0x03
  | .turnTimeout => 0x04
  | .protocol => 0x05
  | .overrun => 0x06
  | .bayOff => 0x07
  | .bayReset => 0x08
  | .bayGone => 0x09
  | .latchOpen => 0x0A
  | .bayFault => 0x0B

/-- The status an abort mark gives (R122). -/
def AbortMark.status : AbortMark → JobStatus
  | .cancel => .canceled
  | .bayReset => .bayReset
  | .latchOpen => .latchOpen
  | .bayFault => .bayFault
  | .bayGone => .bayGone

/-! ## Encodings of R188 -/

/-- An absent one-byte field is sent as FFh (R189). -/
def orAbsent {α : Type} (code : α → Byte) (v : Option α) : Byte := (v.map code).getD 0xFF

def BayState.code : BayState → Byte
  | .empty => 0x00
  | .present => 0x01
  | .powering => 0x02
  | .identifying => 0x03
  | .active => 0x04
  | .resetting => 0x05
  | .draining => 0x06
  | .poweringDown => 0x07
  | .faulted => 0x08

def PowerPhase.code : PowerPhase → Byte
  | .ramp => 0x00
  | .settle => 0x01

def ResetPhase.code : ResetPhase → Byte
  | .waitBus => 0x02
  | .pulse => 0x03
  | .settle => 0x04

/-- The phase byte of BAY-STATUS: the power-up phase in POWERING, the reset phase in RESETTING (R51, R188). -/
def phaseCode (r : Bay) : Byte :=
  match r.powerPhase with
  | some p => p.code
  | none => orAbsent ResetPhase.code r.resetPhase

def FaultCause.code : FaultCause → Byte
  | .power => 0x01
  | .powerUp => 0x02
  | .discharge => 0x03
  | .identity => 0x04
  | .bus => 0x05

def LongCommand.code : LongCommand → Byte
  | .powerOn => 0x01
  | .powerOff => 0x02
  | .resetModule => 0x03

def Origin.code : Origin → Byte
  | .link => 0x00
  | .button => 0x01

def CommandResult.code : CommandResult → Byte
  | .completed => 0x00
  | .failed => 0x01
  | .superseded => 0x02

def HoldOffTarget.code : HoldOffTarget → Byte
  | .off => 0x00
  | .on => 0x01

def Setting.code : Setting → Byte
  | .off => 0x00
  | .on => 0x01
  | .blink => 0x02
  | .auto => 0x03

def Setting.ofCode (b : Byte) : Option Setting :=
  match b.toNat with
  | 0 => some .off
  | 1 => some .on
  | 2 => some .blink
  | 3 => some .auto
  | _ => none

def Driven.code : Driven → Byte
  | .off => 0x00
  | .on => 0x01
  | .blink => 0x02

def ReadStage.code : ReadStage → Byte
  | .noRead => 0x00
  | .candidate => 0x01
  | .onBus => 0x02
  | .leaving => 0x03

def JobKind.code : JobKind → Byte
  | .write => 0x00
  | .exchange => 0x01

/-- FREE is not reported: a request finds no FREE slot (R92). -/
def SlotState.code : SlotState → Byte
  | .free => 0x00
  | .waiting => 0x01
  | .active => 0x02
  | .donePending => 0x03
  | .doneSent => 0x04

def latchActionCode : LatchAction → Byte
  | .orderly => 0x00
  | .immediate => 0x01

def attentionActionCode : AttentionAction → Byte
  | .nothing => 0x00
  | .togglePower => 0x01

def resetCauseCode : ResetCause → Byte
  | .powerOn => 0x01
  | .resetPin => 0x02
  | .restartRequest => 0x03

def byteOf (n : Nat) : Byte := BitVec.ofNat 8 n

def wordOf (n : Nat) : Word16 := BitVec.ofNat 16 n

/-- A 16-bit field as two bytes, high byte first (R186). -/
def two (w : Word16) : List Byte := [hi w, lo w]

/-- The last command result as three bytes (R192, R193). -/
def lastResultBytes : Option LastResult → List Byte
  | none => [0xFF, 0xFF, 0xFF]
  | some l => [l.command.code, l.origin.code, l.result.code]

end Sys2Proof.Machine
end

