-- ==== Sys2Proof/Machine/BayRecord.lean ====
section
/-! DEFINITION. What a Bay Controller does to its own record (chapters 1 and 2): indicators, timers, the command slot and
the state transitions. A transition answers the new record and the event bits it raises (R135: one raise for all the bits
of one transition). The work of the bay on the bus and in the Job Table is disposed of in JobTable.lean. -/

namespace Sys2Proof.Machine

/-! ## Indicators (R44 to R46) -/

/-- The power indicator under AUTO (R45). -/
def Bay.autoPower (r : Bay) : Driven :=
  match r.state with
  | .empty => .off
  | .present => if r.holdOff.isSome then .blink else .off
  | .active => if r.holdOff.isSome then .blink else .on
  | .faulted => .off
  | .powering => .blink
  | .identifying => .blink
  | .resetting => .blink
  | .draining => .blink
  | .poweringDown => .blink

/-- The attention indicator under AUTO (R45). -/
def Bay.autoAttn (r : Bay) : Driven := if r.state = .faulted then .on else .off

/-- The driven value of an indicator: its setting, or the value of the bay under AUTO (R45). -/
def drivenBy (s : Setting) (auto : Driven) : Driven :=
  match s with
  | .off => .off
  | .on => .on
  | .blink => .blink
  | .auto => auto

/-- Both driven values brought up to date (R45). -/
def Bay.relit (r : Bay) : Bay :=
  { r with
    powerLed := { r.powerLed with driven := drivenBy r.powerLed.setting r.autoPower },
    attnLed := { r.attnLed with driven := drivenBy r.attnLed.setting r.autoAttn } }

/-- The level on BAYn_PLED or BAYn_ALED: the driven value, BLINK following the common cycle (R46). -/
def ledLine (i : Indicator) (k : Blink) : Bool :=
  match i.driven with
  | .off => false
  | .on => true
  | .blink => k.lit

/-! ## Leaving a state and ending a command -/

/-- The bay enters a state: every timer of the state it leaves is void and a running hold-off ends (R9, R48), no phase
and no fault cause is carried over (R12, R13, R37), and the indicators follow (R45). -/
def Bay.enter (r : Bay) (st : BayState) : Bay :=
  Bay.relit
    { r with state := st, powerPhase := none, resetPhase := none, cause := none, holdOff := none, powerUpTimer := none,
             settleTimer := none, dischargeTimer := none, pulseTimer := none }

/-- The command in the slot ends with a result; with no command nothing changes and COMMAND is not raised (R10, R30). -/
def Bay.endCommand (r : Bay) (res : CommandResult) : Bay × Byte :=
  match r.pending with
  | none => (r, 0)
  | some c => ({ r with pending := none, lastResult := some ⟨c.command, c.origin, res⟩ }, COMMAND)

/-- A long command enters the slot (R30). -/
def Bay.accept (r : Bay) (c : LongCommand) (o : Origin) : Bay := { r with pending := some ⟨c, o⟩ }

/-! ## Going in -/

/-- Entry to POWERING, up to the test of the power lines (R13). -/
def Bay.ramp (r : Bay) (c : BayConfig) : Bay :=
  { r.enter .powering with
    pen := true, mrst := true, powerPhase := some .ramp, timeouts := 0, powerUpTimer := some (powerUpTime c) }

/-- Phase SETTLE of POWERING (R14). -/
def Bay.settle (r : Bay) (c : BayConfig) : Bay :=
  { r with powerUpTimer := none, powerPhase := some .settle, mrst := false, settleTimer := some (settleTime c) }

/-- Entry to IDENTIFYING with the identity read a candidate (R16, R41, R79). -/
def Bay.identify (r : Bay) : Bay := { r.enter .identifying with pen := true, mrst := false, read := .candidate }

/-- Entry to ACTIVE on a valid identity: the record is stored, the pending command COMPLETED, SERVICE raised if
BAYn_SRQ_n is asserted (R7, R10, R17, R85). -/
def Bay.activate (r : Bay) (id : Identity) : Bay × Byte :=
  let e := r.endCommand .completed
  ({ e.1.enter .active with identity := some id }, e.2 ||| bitsIf r.service SERVICE)

/-! ## Going out -/

/-- Entry to PRESENT from POWERING-DOWN (R22): a pending POWER-OFF ends COMPLETED. -/
def Bay.discharged (r : Bay) : Bay × Byte :=
  let e := r.endCommand .completed
  (e.1.enter .present, e.2)

/-- Entry to POWERING-DOWN, passing on to PRESENT where BAYn_PGOOD is already low (R21, R22). -/
def Bay.powerDown (r : Bay) (c : BayConfig) : Bay × Byte :=
  let d := { r.enter .poweringDown with pen := false, mrst := true }
  if d.pgood then ({ d with dischargeTimer := some (dischargeTime c) }, 0) else d.discharged

/-- The drain condition: no ACTIVE host job of the bay and no identity read granted or being aborted (R20). -/
def Bay.drained (r : Bay) : Bool := r.liveJobs == 0 && r.read != .onBus && r.read != .leaving

/-- The drain condition tested in DRAINING; where it holds the bay passes on to POWERING-DOWN (R20). -/
def Bay.testDrain (r : Bay) (c : BayConfig) : Bay × Byte :=
  if r.state = .draining ∧ r.drained then r.powerDown c else (r, 0)

/-- Entry to DRAINING with BAYn_PEN asserted, BAYn_MRST_n at its level, and the drain condition tested (R8, R20). -/
def Bay.drain (r : Bay) (c : BayConfig) : Bay × Byte := Bay.testDrain { r.enter .draining with pen := true } c

/-- The pending command is superseded by a POWER-OFF from the link and the bay drains (R34, R35). -/
def Bay.supersede (r : Bay) (c : BayConfig) : Bay × Byte :=
  let e := r.endCommand .superseded
  let d := (e.1.accept .powerOff .link).drain c
  (d.1, e.2 ||| d.2)

/-- The bay record's part of an ORDERLY latch opening (R24). -/
def Bay.orderly (r : Bay) (c : BayConfig) : Bay × Byte :=
  let e := r.endCommand .superseded
  let d := e.1.drain c
  (d.1, e.2 ||| d.2)

/-- The bay record's part of an IMMEDIATE latch opening (R25). -/
def Bay.immediate (r : Bay) (c : BayConfig) : Bay × Byte :=
  let e := r.endCommand .superseded
  let d := e.1.powerDown c
  (d.1, e.2 ||| d.2 ||| UNSAFE_LATCH)

/-! ## RESETTING -/

/-- The reset pulse starts (R39). -/
def Bay.startPulse (r : Bay) : Bay :=
  { r with mrst := true, resetPhase := some .pulse, pulseTimer := some resetPulseTime }

/-- In phase WAIT-BUS with a live job count of 0 the reset pulse starts (R39). -/
def Bay.testPulse (r : Bay) : Bay :=
  if r.state = .resetting ∧ r.resetPhase = some .waitBus ∧ r.liveJobs = 0 then r.startPulse else r

/-- Entry to RESETTING, with the pulse starting within it where no job of the bay is on the bus (R38). -/
def Bay.resetModule (r : Bay) : Bay :=
  Bay.testPulse { r.enter .resetting with pen := true, mrst := false, resetPhase := some .waitBus }

/-- Phase SETTLE of RESETTING (R40). -/
def Bay.pulseDone (r : Bay) (c : BayConfig) : Bay :=
  { r with mrst := false, pulseTimer := none, resetPhase := some .settle, settleTimer := some (settleTime c) }

/-! ## Breaks -/

/-- Entry to FAULTED, the record's part (R12): power cut, cause set, a pending command FAILED, FAULT raised. -/
def Bay.fault (r : Bay) (k : FaultCause) : Bay × Byte :=
  let e := r.endCommand .failed
  ({ e.1.enter .faulted with pen := false, mrst := true, cause := some k }, e.2 ||| FAULT)

/-- Entry to EMPTY on a loss of presence, the record's part (R27). -/
def Bay.remove (r : Bay) : Bay × Byte :=
  let e := r.endCommand .failed
  ({ e.1.enter .empty with presence := false, presenceCount := none, pen := false, mrst := true, identity := none },
   e.2 ||| PRESENCE ||| bitsIf r.pen SURPRISE)

/-- CLEAR-FAULT with BAYn_PGOOD low: the bay enters PRESENT and raises nothing (R43). -/
def Bay.clearFault (r : Bay) : Bay := { r.enter .present with pen := false, mrst := true }

/-- Whether the power lines show a loss of power in the bay's state (R6). -/
def Bay.powerLost (r : Bay) : Bool :=
  match r.state with
  | .powering => r.pfault || (decide (r.powerPhase = some .settle) && !r.pgood)
  | .identifying => r.pfault || !r.pgood
  | .active => r.pfault || !r.pgood
  | .resetting => r.pfault || !r.pgood
  | .draining => r.pfault || !r.pgood
  | .empty => false
  | .present => false
  | .poweringDown => false
  | .faulted => false

/-- The states in which BAYn_PEN is asserted (R8). -/
def BayState.powered : BayState → Bool
  | .powering => true
  | .identifying => true
  | .active => true
  | .resetting => true
  | .draining => true
  | .empty => false
  | .present => false
  | .poweringDown => false
  | .faulted => false

/-! ## The hold-off (R47) -/

/-- A press offered to the hold-off mechanism (R47). -/
def Bay.offerPress (r : Bay) (c : BayConfig) : Bay :=
  if r.holdOff.isSome then Bay.relit { r with holdOff := none }
  else if c.attentionAction = .togglePower ∧ r.state = .active then
    Bay.relit { r with holdOff := some ⟨.off, holdOffTime c⟩ }
  else if c.attentionAction = .togglePower ∧ r.state = .present ∧ r.latchClosed then
    Bay.relit { r with holdOff := some ⟨.on, holdOffTime c⟩ }
  else r

/-! ## Debouncing (R2) -/

/-- The debounce count after a line has moved to a level: started where the level differs from the recorded one,
cancelled where it is the recorded one (R2). -/
def debounce (level recorded : Bool) : Option Ticks := if level = recorded then none else some debounceTime

/-- A raw edge on a debounced line (R2); a level the line already has is no edge. -/
def Bay.edge (r : Bay) (line : SideLine) (level : Bool) : Bay :=
  match line with
  | .presence =>
    if level = r.presenceLine then r else { r with presenceLine := level, presenceCount := debounce level r.presence }
  | .latch =>
    if level = r.latchLine then r else { r with latchLine := level, latchCount := debounce level r.latchClosed }
  | .attention =>
    if level = r.attnLine then r else { r with attnLine := level, attnCount := debounce level r.pressed }

/-- The bay record a hardware reset leaves: R1's values, the line levels kept, the debounced latch and attention and the
service level taken from the lines, and a seated module counted from then (R1, R2). -/
def Bay.hardwareReset (r : Bay) : Bay :=
  { Bay.atReset with
    presenceLine := r.presenceLine, latchLine := r.latchLine, attnLine := r.attnLine, pgood := r.pgood,
    pfault := r.pfault, latchClosed := r.latchLine, pressed := r.attnLine, service := r.service,
    presenceCount := debounce r.presenceLine false }

end Sys2Proof.Machine
end

