-- ==== Sys2Proof/Machine/Operands.lean ====
section
/-! DEFINITION. Reading the fields of a request's payload (R190 to R192): lengths, bay numbers, the SUBMIT fields, the
configuration records, and the identity record of R82. -/

namespace Sys2Proof.Machine

/-- Byte i of a payload; the length checks of R190 come before any use. -/
def byteAt (p : List Byte) (i : Nat) : Byte := p.getD i 0

def wordAt (p : List Byte) (i : Nat) : Word16 := word (byteAt p i) (byteAt p (i + 1))

/-- A bay field of 00h to 07h. -/
def bayOf? (b : Byte) : Option BayNo := if h : b.toNat < 8 then some ⟨b.toNat, h⟩ else none

/-- A source field of 00h to 08h (R188). -/
def sourceOf? (b : Byte) : Option SourceNo := if h : b.toNat < 9 then some ⟨b.toNat, h⟩ else none

/-! ## Payload lengths (R190) -/

def lengthIs (n : Nat) (p : List Byte) : Bool := p.length == n

def pingLength (p : List Byte) : Bool := decide (p.length ≤ 16)

def submitLength (p : List Byte) : Bool := decide (9 ≤ p.length ∧ p.length ≤ 249)

/-! ## SUBMIT (R98, R192) -/

/-- The fields of a well-formed SUBMIT. -/
structure SubmitFields where
  tag : Word16
  bay : BayNo
  channel : Byte
  kind : JobKind
  compress : Bool
  inLimit : Option Nat
  deadline : Option Nat
  outData : List Byte
  deriving DecidableEq, Repr

/-- The kind, with the out length and in limit R98 allows it; an EXCHANGE has an in limit, a WRITE has none. -/
def submitKind (kind : Byte) (outLength inLimit : Nat) : Option (JobKind × Option Nat) :=
  if kind = 0x00 ∧ outLength ≠ 0 ∧ inLimit = 0 then some (.write, none)
  else if kind = 0x01 ∧ 1 ≤ inLimit ∧ inLimit ≤ 240 then some (.exchange, some inLimit)
  else none

/-- The deadline field: present and not 0, or absent and 0 (R98). -/
def submitDeadline (flag : Bool) (deadline : Nat) : Option (Option Nat) :=
  if flag then (if deadline = 0 then none else some (some deadline))
  else (if deadline = 0 then some none else none)

/-- The fields of a SUBMIT of good length, or none where R98 refuses it BAD-ARGUMENT. -/
def submitFields (p : List Byte) : Option SubmitFields :=
  let flags := byteAt p 5
  let out := p.drop 9
  match bayOf? (byteAt p 2), submitKind (byteAt p 4) out.length (byteAt p 6).toNat,
      submitDeadline (flags.getLsbD 1) (wordAt p 7).toNat with
  | some bay, some (kind, inLimit), some deadline =>
    if (byteAt p 3).toNat ≤ 14 ∧ flags.toNat < 4 then
      some { tag := wordAt p 0, bay := bay, channel := byteAt p 3, kind := kind, compress := flags.getLsbD 0,
             inLimit := inLimit, deadline := deadline, outData := out }
    else none
  | _, _, _ => none

/-- Blocks a job needs (R93). -/
def blocksNeeded (outLength : Nat) (inLimit : Option Nat) : Nat := (max outLength (inLimit.getD 0) + 31) / 32

/-! ## Configuration records (R178, R179, R192) -/

def latchActionOf? (b : Byte) : Option LatchAction :=
  if b = 0x00 then some .orderly else if b = 0x01 then some .immediate else none

def attentionActionOf? (b : Byte) : Option AttentionAction :=
  if b = 0x00 then some .nothing else if b = 0x01 then some .togglePower else none

/-- A bay configuration record of ten bytes, or none where an item is outside R178. -/
def bayConfigOf? (p : List Byte) : Option BayConfig :=
  match latchActionOf? (byteAt p 6), attentionActionOf? (byteAt p 7) with
  | some l, some a =>
    if byteAt p 0 ≠ 0 ∧ byteAt p 1 ≠ 0 ∧ byteAt p 2 ≠ 0 ∧ byteAt p 3 ≠ 0 ∧ byteAt p 4 ≠ 0 ∧ byteAt p 5 ≠ 0 ∧
        (byteAt p 5).toNat ≤ 15 ∧ byteAt p 8 ≠ 0 ∧ (byteAt p 8).toNat ≤ 15 then
      some { powerUp := byteAt p 0, settle := byteAt p 1, discharge := byteAt p 2, byteTimeout := byteAt p 3,
             turnaround := byteAt p 4, faultLimit := byteAt p 5, latchAction := l, attentionAction := a,
             holdOff := byteAt p 8, notifyMask := byteAt p 9 }
    else none
  | _, _ => none

def bayConfigBytes (c : BayConfig) : List Byte :=
  [c.powerUp, c.settle, c.discharge, c.byteTimeout, c.turnaround, c.faultLimit, latchActionCode c.latchAction,
   attentionActionCode c.attentionAction, c.holdOff, c.notifyMask]

/-- A link configuration of three bytes, or none where an item is outside R179. -/
def linkConfigOf? (p : List Byte) : Option LinkConfig :=
  let t := wordAt p 0
  let r := byteAt p 2
  if 5 ≤ t.toNat ∧ t.toNat ≤ 1000 ∧ 1 ≤ r.toNat ∧ r.toNat ≤ 8 then some { ackTimeout := t, retryLimit := r } else none

def linkConfigBytes (c : LinkConfig) : List Byte := two c.ackTimeout ++ [c.retryLimit]

/-! ## The identity record (R82, R84) -/

def sumBytes (l : List Byte) : Byte := l.foldl (· + ·) 0

/-- The seven checks of R84 on the count of bytes in and the identity buffer, and the parts R85 stores. -/
def identityOf? (bytesIn : Nat) (buffer : List Byte) : Option Identity :=
  let l := (byteAt buffer 6).toNat
  let map := wordAt buffer 4
  if 8 ≤ bytesIn ∧ l ≤ 16 ∧ bytesIn = 8 + l ∧ byteAt buffer 0 = 0x01 ∧ map.getLsbD 15 = false ∧ map ≠ 0 ∧
      sumBytes (buffer.take (8 + l)) = 0 then
    some { moduleClass := wordAt buffer 1, revision := byteAt buffer 3, channelMap := map,
           serial := (buffer.drop 7).take l }
  else none

end Sys2Proof.Machine
end

