-- ==== Sys2Proof/Machine/Ops.lean ====
section
/-! DEFINITION. The named operations over the state that every block uses: reading and writing one record, the bytes of
the buffer pool, counters, reports handed from block to block, the Event Reporter and the notice lists. -/

namespace Sys2Proof.Machine

/-! ## One record of each kind -/

def State.bay (s : State) (b : BayNo) : Bay := s.bays[b]

def State.setBay (s : State) (b : BayNo) (r : Bay) : State := { s with bays := s.bays.set b r }

def State.slot (s : State) (j : SlotNo) : Slot := s.jobs.slots[j]

def State.setSlot (s : State) (j : SlotNo) (k : Slot) : State :=
  { s with jobs := { s.jobs with slots := s.jobs.slots.set j k } }

def State.queue (s : State) (b : BayNo) : List SlotNo := s.jobs.queues[b]

def State.setQueue (s : State) (b : BayNo) (q : List SlotNo) : State :=
  { s with jobs := { s.jobs with queues := s.jobs.queues.set b q } }

def State.source (s : State) (n : SourceNo) : SourceRecord := s.reporter.sources[n]

def State.setSource (s : State) (n : SourceNo) (r : SourceRecord) : State :=
  { s with reporter := { s.reporter with sources := s.reporter.sources.set n r } }

def State.bayConfig (s : State) (b : BayNo) : BayConfig := s.config.bays[b]

def State.setBayConfig (s : State) (b : BayNo) (c : BayConfig) : State :=
  { s with config := { s.config with bays := s.config.bays.set b c } }

/-- The reports on their way. -/
def State.setHanded (s : State) (l : List Report) : State := { s with handed := l }

/-- The last-served bay (R115). -/
def State.setServed (s : State) (b : BayNo) : State := { s with lastServed := b }

/-- The count of free values drawn (assumption log 5). -/
def State.setDraws (s : State) (n : Nat) : State := { s with freeDraws := n }

def State.setJobs (s : State) (j : JobTable) : State := { s with jobs := j }

def State.setReporter (s : State) (r : Reporter) : State := { s with reporter := r }

def State.setLinkConfig (s : State) (c : LinkConfig) : State := { s with config := { s.config with link := c } }

def State.setBlink (s : State) (k : Blink) : State := { s with blink := k }

/-! ## Counters (R183, R184) -/

def State.bayCounters (s : State) (b : BayNo) : BayCounters := s.counters.bays[b]

def State.setBayCounters (s : State) (b : BayNo) (c : BayCounters) : State :=
  { s with counters := { s.counters with bays := s.counters.bays.set b c } }

def State.setDeviceCounters (s : State) (c : DeviceCounters) : State :=
  { s with counters := { s.counters with device := c } }

def BayCounters.jobEnded (c : BayCounters) (st : JobStatus) : BayCounters :=
  if st = .done then { c with jobsDone := advance c.jobsDone } else { c with jobsEnded := advance c.jobsEnded }

def BayCounters.timeout (c : BayCounters) : BayCounters := { c with timeouts := advance c.timeouts }

def BayCounters.powerFault (c : BayCounters) : BayCounters := { c with powerFaults := advance c.powerFaults }

def BayCounters.press (c : BayCounters) : BayCounters := { c with presses := advance c.presses }

def DeviceCounters.duplicate (c : DeviceCounters) : DeviceCounters := { c with duplicates := advance c.duplicates }

def DeviceCounters.drop (c : DeviceCounters) : DeviceCounters := { c with dropped := advance c.dropped }

def DeviceCounters.retransmit (c : DeviceCounters) : DeviceCounters :=
  { c with retransmitted := advance c.retransmitted }

def DeviceCounters.stale (c : DeviceCounters) : DeviceCounters := { c with staleAcks := advance c.staleAcks }

/-- n frames accepted (R150). -/
def DeviceCounters.accept (c : DeviceCounters) (n : Nat) : DeviceCounters :=
  { c with accepted := n.repeat advance c.accepted }

/-- n candidates discarded (R149). -/
def DeviceCounters.discard (c : DeviceCounters) (n : Nat) : DeviceCounters :=
  { c with discarded := n.repeat advance c.discarded }

/-! ## The bytes of the buffer pool (05, section 5.3) -/

/-- The byte at an address; an address not listed reads 00h (assumption log 6). -/
def Memory.read : List Host.Cell → Nat → Byte
  | [], _ => 0
  | (b, v) :: t, a => if a = b then v else Memory.read t a

/-- One byte written, the canonical form kept. -/
def Memory.write : List Host.Cell → Nat → Byte → List Host.Cell
  | [], a, v => if v = 0 then [] else [(a, v)]
  | (b, w) :: t, a, v =>
    if a < b then (if v = 0 then (b, w) :: t else (a, v) :: (b, w) :: t)
    else if a = b then (if v = 0 then t else (a, v) :: t)
    else (b, w) :: Memory.write t a v

/-- The canonical form: addresses strictly rising, no entry equal to what an address not listed reads as. -/
def Memory.wf : List Host.Cell → Bool
  | [] => true
  | [(_, v)] => v != 0
  | (a, v) :: (b, w) :: t => decide (a < b) && v != 0 && Memory.wf ((b, w) :: t)

/-- The pool address of data byte i of a job that holds these blocks (05, section 5.3). -/
def blockAddress? (blocks : List BlockNo) (i : Nat) : Option Nat :=
  (blocks[i / 32]?).map fun b => 32 * b.val + i % 32

/-- Data bytes written into a job's blocks from data byte i onward; bytes past the blocks go nowhere. -/
def poolStore (m : List Host.Cell) (blocks : List BlockNo) (i : Nat) : List Byte → List Host.Cell
  | [] => m
  | v :: t =>
    match blockAddress? blocks i with
    | some a => poolStore (Memory.write m a v) blocks (i + 1) t
    | none => m

/-- Data bytes i to i + n - 1 of a job. -/
def poolLoad (m : List Host.Cell) (blocks : List BlockNo) (i : Nat) : Nat → List Byte
  | 0 => []
  | n + 1 => ((blockAddress? blocks i).map (Memory.read m)).getD 0 :: poolLoad m blocks (i + 1) n

def State.setPool (s : State) (m : List Host.Cell) : State := { s with jobs := { s.jobs with pool := m } }

/-! ## Reports handed from block to block -/

def State.hand (s : State) (r : Report) : State := { s with handed := s.handed ++ [r] }

def State.handAll (s : State) (rs : List Report) : State := { s with handed := s.handed ++ rs }

/-- A raise handed to the Event Reporter; no raise is made of no bits (R135). -/
def State.raise (s : State) (n : SourceNo) (bits : Byte) : State := if bits = 0 then s else s.hand (.raise n bits)

/-- The oldest report that the selector accepts, and the reports without it. -/
def takeFirst {α : Type} (sel : Report → Option α) : List Report → Option (α × List Report)
  | [] => none
  | r :: t =>
    match sel r with
    | some a => some (a, t)
    | none => (takeFirst sel t).map fun p => (p.1, r :: p.2)

/-- A receiver takes the oldest report meant for it and acts on it; with none in flight nothing happens
(assumption log 3). -/
def State.takeReport {α : Type} (s : State) (sel : Report → Option α) (act : α → State → State) : State :=
  match takeFirst sel s.handed with
  | none => s
  | some (a, rest) => act a (s.setHanded rest)

/-- A transition of a bay record, with all the bits it raises in one raise (R135). -/
def State.actBay (s : State) (b : BayNo) (f : Bay → Bay × Byte) : State :=
  (s.setBay b (f (s.bay b)).1).raise (baySource b) (f (s.bay b)).2

/-! ## The notice lists (R168) -/

def State.setTransmitter (s : State) (t : Transmitter) : State := { s with transmitter := t }

def State.setHandler (s : State) (h : Handler) : State := { s with handler := h }

def State.setPort (s : State) (p : LinkPort) : State := { s with port := p }

def State.queueNotice (s : State) (n : Notice) : State :=
  s.setTransmitter { s.transmitter with pending := s.transmitter.pending ++ [n] }

/-! ## The Event Reporter (chapter 7) -/

/-- The bay that a source is, or none for the device (R188). -/
def bayOfSource? (n : SourceNo) : Option BayNo := if h : n.val < 8 then some ⟨n.val, h⟩ else none

/-- The notify mask of a source as it stands (R137; the device's is fixed, R136). -/
def State.mask (s : State) (n : SourceNo) : Byte :=
  match bayOfSource? n with
  | some b => (s.bayConfig b).notifyMask
  | none => deviceMask

/-- The notice test (R138). -/
def State.noticeTest (s : State) (n : SourceNo) : State :=
  if (s.source n).set &&& s.mask n ≠ 0 ∧ (s.source n).stage = .noNotice ∧ s.handler.link ≠ .down then
    (s.setSource n { s.source n with stage := .pending }).queueNotice (.event n)
  else s

/-- The effect of newly enabled bits by the notice stage (R139). -/
def State.newlyEnabled (s : State) (n : SourceNo) : State :=
  match (s.source n).stage with
  | .noNotice => s.noticeTest n
  | .pending => s
  | .sent => s.setSource n { s.source n with renotify := true }

/-- A raise is recorded (R135): the bits join the set, and newly set enabled bits act by R139. -/
def State.recordRaise (s : State) (n : SourceNo) (bits : Byte) : State :=
  let fresh := bits &&& ~~~(s.source n).set
  let s1 := s.setSource n { s.source n with set := (s.source n).set ||| bits }
  if fresh &&& s1.mask n ≠ 0 then s1.newlyEnabled n else s1

/-- A bay's configuration record is stored, with the effect of its notify mask on the source (R137, R180). -/
def State.storeBayConfig (s : State) (b : BayNo) (c : BayConfig) : State :=
  let added := c.notifyMask &&& ~~~(s.bayConfig b).notifyMask
  let s1 := s.setBayConfig b c
  if (s1.source (baySource b)).set &&& added ≠ 0 then s1.newlyEnabled (baySource b) else s1

/-- The content captured at the first send of a source's notice (R140). -/
def State.captureOf (s : State) (n : SourceNo) : Capture :=
  match bayOfSource? n with
  | some b => .bay b (s.source n).set (s.bay b).state (s.bay b).lastResult (s.bay b).cause
  | none => .device (s.source n).set s.reporter.resetCause

/-- The Event Reporter's part of a first send (R140). -/
def State.markSent (s : State) (n : SourceNo) : State :=
  s.setSource n { s.source n with stage := .sent, capture := some (s.captureOf n) }

/-- The removal of a source's notice by ACK (R142). -/
def State.eventRemoved (s : State) (n : SourceNo) : State :=
  let r := s.source n
  let s1 := s.setSource n { r with stage := .noNotice, capture := none, renotify := false }
  if r.renotify then s1.noticeTest n else s1

/-- A source record at a session end (R134). -/
def SourceRecord.sessionEnd (r : SourceRecord) : SourceRecord :=
  { r with stage := .noNotice, renotify := false, capture := none }

/-- The sources in the order of a session start: the device, then bays 0 to 7 (R146). -/
def sessionOrder : List SourceNo := [8, 0, 1, 2, 3, 4, 5, 6, 7]

/-- The notice test for every source at a session start (R146). -/
def State.startNotices (s : State) : State := sessionOrder.foldl State.noticeTest s

end Sys2Proof.Machine
end

