-- ==== Sys2Proof/Machine/BusEngine.lean ====
section
/-! DEFINITION. The Module Bus Engine on its own record (chapter 3): selection, the forward coder, the two handshakes,
turnaround, endings, abort, abandon, release and line watch. A function answers the new record and the reports it hands
over, in order; the configuration record is that of the selected bay (R57, R62). -/

namespace Sys2Proof.Machine

/-! ## Endings, reports and release -/

/-- The ending report to the owner of the work (R74, R81). -/
def Engine.endingReport (e : Engine) (w : Work) (x : Ending) : Report :=
  match w with
  | .job j => .jobEnding j x e.bytesOut e.bytesIn
  | .identity b => .identityEnding b x e.bytesIn e.identityBuffer false

/-- The reports handed as an ending is fixed: the ending report and the timeout accounting (R74, R78). -/
def Engine.endingReports (e : Engine) (x : Ending) : List Report :=
  (e.work.map fun w => e.endingReport w x).toList ++ (e.selected.map fun b => Report.timeoutAccounting b x).toList

/-- An ending is fixed and reported; an ending already fixed stays and is not reported again (R60, R73). -/
def Engine.fix (e : Engine) (x : Ending) : Engine × List Report :=
  match e.ending with
  | none => ({ e with ending := some x }, e.endingReports x)
  | some _ => (e, [])

/-- The engine goes to IDLE, or to HELD where a module line is high, raising BUS-HELD (R74, R75). -/
def Engine.watch (e : Engine) : Engine × List Report :=
  if e.ack || e.revack then
    ({ e with state := .held, heldTimer := some heldTime }, [.raise deviceSource BUS_HELD])
  else ({ e with state := .idle, heldTimer := none }, [])

/-- The lines and fields that a release lets go (R74). -/
def Engine.deselect (e : Engine) : Engine :=
  { e with work := none, selected := none, abortStep := none, pendingRepeat := none, item := none, handshake := .none,
           byteTimer := none, turnTimer := none, sel := 0, selv := false, stb := false, rev := false, drive := none }

/-- Release (R74): the selection ends, the release report goes to the bay. -/
def Engine.release (e : Engine) : Engine × List Report :=
  let w := e.deselect.watch
  (w.1, (e.selected.map fun b => Report.release b false).toList ++ w.2)

/-- The ending is fixed and the bus released in the same step (R61, R68, R71 to R73). -/
def Engine.finish (e : Engine) (x : Ending) : Engine × List Report :=
  let f := e.fix x
  let r := f.1.release
  (r.1, f.2 ++ r.2)

/-! ## The forward direction -/

/-- The byte that a piece puts on the lines (R58, R61, R65). -/
def Engine.itemByte (e : Engine) (i : ForwardItem) : BusByte :=
  match i with
  | .channel => ⟨true, e.message.channel⟩
  | .repeatCount n => ⟨true, byteOf (0x80 + n - 1)⟩
  | .data _ => ⟨false, byteAt e.message.outData e.position⟩
  | .endMark => ⟨true, 0x10⟩
  | .abort => ⟨true, 0x11⟩

/-- A forward byte becomes due: it is placed on the lines and timed, and MB_STB rises unless MB_ACK is still high
(R55, R57; assumption log 9). -/
def Engine.startItem (e : Engine) (c : BayConfig) (i : ForwardItem) : Engine :=
  { e with item := some i, drive := some (e.itemByte i), stb := !e.ack, byteTimer := some (byteTime c),
           handshake := if e.ack then .due else .strobed }

/-- The length of the run of equal bytes at the head of a list (R65). -/
def runLength : List Byte → Nat
  | [] => 0
  | [_] => 1
  | a :: b :: t => if a = b then runLength (b :: t) + 1 else 1

/-- The next piece of the out data from the coder's position, or END after the last (R61, R65). -/
def Engine.nextPiece (e : Engine) : ForwardItem :=
  let rest := e.message.outData.drop e.position
  if rest.isEmpty then .endMark
  else if e.message.compress && decide (3 ≤ runLength rest) then .repeatCount (min (runLength rest) 128)
  else .data 1

/-- A data byte of this weight has completed its handshake (R61, R65). -/
def Engine.advanceData (e : Engine) (w : Nat) : Engine :=
  { e with position := e.position + w, bytesOut := e.bytesOut + w }

/-- Entry to REVERSE with the first offer wait (R62). -/
def Engine.enterReverse (e : Engine) (c : BayConfig) : Engine :=
  { e with state := .reverse, turnTimer := none, handshake := .offer, byteTimer := some (byteTime c) }

/-- Entry to TURNING, going on to REVERSE where MB_REVACK is already high (R62). -/
def Engine.enterTurning (e : Engine) (c : BayConfig) : Engine :=
  let t := { e with state := .turning, drive := none, item := none, handshake := .none, stb := false, rev := true,
                    byteTimer := none, turnTimer := some (turnaroundTime c) }
  if t.revack then t.enterReverse c else t

/-- A grant is taken (R54, R60, R80): the work is recorded, the bay selected, the CHANNEL byte due. -/
def Engine.select (e : Engine) (c : BayConfig) (w : Work) (b : BayNo) (m : Message) : Engine :=
  Engine.startItem
    { e with state := .forward, work := some w, selected := some b, ending := none, abortStep := none, bytesOut := 0,
             bytesIn := 0, message := m, position := 0, pendingRepeat := none, lastUsed := some b, heldTimer := none,
             turnTimer := none, identityBuffer := if w = .identity b then [] else e.identityBuffer,
             sel := BitVec.ofNat 3 b.val, selv := true, rev := false }
    c .channel

/-- A forward byte of a message has completed (R61, R62, R65). -/
def Engine.itemDone (e : Engine) (c : BayConfig) : Engine × List Report :=
  match e.item with
  | some .channel => (e.startItem c e.nextPiece, [])
  | some (.repeatCount n) => (e.startItem c (.data n), [])
  | some (.data w) => ((e.advanceData w).startItem c (e.advanceData w).nextPiece, [])
  | some .endMark => if e.message.exchange then (e.enterTurning c, []) else e.finish .done
  | some .abort => e.finish .aborted
  | none => (e, [])

/-! ## Closing -/

/-- Both module lines are low, so a wait for them ends with the release (R64, R72). -/
def Engine.releaseIfLow (e : Engine) (x : Ending) : Engine × List Report :=
  if e.ack || e.revack then (e, []) else e.finish x

/-- Entry to ABORTING with step WAIT-LINES (R69, R70, R72). -/
def Engine.waitLines (e : Engine) (c : BayConfig) : Engine × List Report :=
  Engine.releaseIfLow
    { e with state := .aborting, abortStep := some .waitLines, stb := false, rev := false, handshake := .none,
             byteTimer := none, turnTimer := some (turnaroundTime c) }
    .aborted

/-- Entry to TURNING-BACK (R63, R64). -/
def Engine.turnBack (e : Engine) (c : BayConfig) : Engine × List Report :=
  Engine.releaseIfLow
    { e with state := .turningBack, stb := false, rev := false, handshake := .none, byteTimer := none,
             turnTimer := some (turnaroundTime c) }
    .done

/-- A refused offer or a lost MB_REVACK closes the reverse phase (R59, R69). -/
def Engine.refuse (e : Engine) (c : BayConfig) (x : Ending) : Engine × List Report :=
  let f := e.fix x
  let w := f.1.waitLines c
  (w.1, f.2 ++ w.2)

/-- Abort step SEND-ABORT: the ABORT byte is due (R71). -/
def Engine.sendAbort (e : Engine) (c : BayConfig) : Engine :=
  Engine.startItem { e with state := .aborting, abortStep := some .sendAbort } c .abort

/-- The forward byte in progress has finished in step FINISH-BYTE (R71). -/
def Engine.finishByte (e : Engine) (c : BayConfig) : Engine :=
  match e.item with
  | some (.data w) => (e.advanceData w).sendAbort c
  | _ => e.sendAbort c

/-! ## The reverse direction -/

/-- An offer stands before the engine (R56). -/
def Engine.offered (e : Engine) : Bool := e.state == .reverse && e.handshake == .offer && e.ack

/-- The room left below the in limit (R67). -/
def Engine.room (e : Engine) : Nat := e.message.inLimit - e.bytesIn

/-- The decoded weight of an offered data byte (R66, R67). -/
def Engine.weight (e : Engine) : Nat := e.pendingRepeat.getD 1

/-- How many copies the offered byte stores: none for a command byte, else its weight as the room allows (R67). -/
def Engine.copies (e : Engine) : Nat := if e.modByte.cmd then 0 else min e.weight e.room

/-- The bytes that the offered byte stores. -/
def Engine.received (e : Engine) : List Byte := List.replicate e.copies e.modByte.data

/-- The received bytes are counted, and an identity read's join the identity buffer (R60). -/
def Engine.keep (e : Engine) : Engine :=
  { e with
    bytesIn := e.bytesIn + e.copies,
    identityBuffer :=
      match e.work with
      | some (.identity _) => e.identityBuffer ++ e.received
      | _ => e.identityBuffer }

/-- An offer is taken: MB_STB rises and the byte is timed from the offer (R56, R57). -/
def Engine.take (e : Engine) (c : BayConfig) (h : Handshake) (rep : Option Nat) : Engine :=
  { e with stb := true, handshake := h, byteTimer := some (byteTime c), pendingRepeat := rep }

/-- The offered byte is examined and taken or refused (R56, R59, R63, R66, R67). -/
def Engine.examine (e : Engine) (c : BayConfig) : Engine × List Report :=
  if e.modByte.cmd then
    if e.pendingRepeat.isSome then e.refuse c .protocol
    else if e.modByte.data = 0x10 then (e.take c .takenEnd none).fix .done
    else if 0x81 ≤ e.modByte.data.toNat then
      (e.take c .taken (some (e.modByte.data.toNat - 0x80 + 1)), [])
    else e.refuse c .protocol
  else if e.weight ≤ e.room then (e.keep.take c .taken none, [])
  else e.keep.refuse c .overrun

/-! ## Edges of the module's lines -/

/-- MB_ACK has risen (R55, R75). An offer is examined apart (Engine.examine). -/
def Engine.ackRise (e : Engine) : Engine × List Report :=
  match e.state with
  | .idle => e.watch
  | .forward =>
    if e.handshake = .strobed then ({ e with stb := false, handshake := .acked }, []) else (e, [])
  | .aborting =>
    if e.handshake = .strobed then ({ e with stb := false, handshake := .acked }, []) else (e, [])
  | .turning => (e, [])
  | .reverse => (e, [])
  | .turningBack => (e, [])
  | .held => (e, [])

/-- Both lines low in HELD return the engine to IDLE and raise BUS-RELEASED (R77). -/
def Engine.leaveHeld (e : Engine) : Engine × List Report :=
  if e.ack || e.revack then (e, [])
  else ({ e with state := .idle, heldTimer := none }, [.raise deviceSource BUS_RELEASED])

/-- MB_STB rises for a byte that waited for MB_ACK to fall (R55). -/
def Engine.strobe (e : Engine) : Engine := { e with stb := true, handshake := .strobed }

/-- MB_ACK has fallen in FORWARD or in a forward abort (R55, R61, R71). -/
def Engine.forwardFall (e : Engine) (c : BayConfig) : Engine × List Report :=
  match e.handshake with
  | .due => (e.strobe, [])
  | .acked => if e.abortStep = some .finishByte then (e.finishByte c, []) else e.itemDone c
  | .none => (e, [])
  | .strobed => (e, [])
  | .offer => (e, [])
  | .taken => (e, [])
  | .takenEnd => (e, [])

/-- MB_ACK has fallen in REVERSE (R56, R57, R63). -/
def Engine.reverseFall (e : Engine) (c : BayConfig) : Engine × List Report :=
  match e.handshake with
  | .taken => ({ e with stb := false, handshake := .offer, byteTimer := some (byteTime c) }, [])
  | .takenEnd => e.turnBack c
  | .none => (e, [])
  | .due => (e, [])
  | .strobed => (e, [])
  | .acked => (e, [])
  | .offer => (e, [])

/-- MB_ACK has fallen (R55, R56, R63, R64, R72, R77). -/
def Engine.ackFall (e : Engine) (c : BayConfig) : Engine × List Report :=
  match e.state with
  | .forward => e.forwardFall c
  | .aborting => if e.abortStep = some .waitLines then e.releaseIfLow .aborted else e.forwardFall c
  | .reverse => e.reverseFall c
  | .turningBack => e.releaseIfLow .done
  | .held => e.leaveHeld
  | .idle => (e, [])
  | .turning => (e, [])

/-- MB_REVACK has risen (R62, R75). An offer found with it is examined apart. -/
def Engine.revackRise (e : Engine) (c : BayConfig) : Engine × List Report :=
  match e.state with
  | .idle => e.watch
  | .turning => (e.enterReverse c, [])
  | .forward => (e, [])
  | .reverse => (e, [])
  | .turningBack => (e, [])
  | .aborting => (e, [])
  | .held => (e, [])

/-- MB_REVACK has fallen (R59, R64, R72, R77). -/
def Engine.revackFall (e : Engine) (c : BayConfig) : Engine × List Report :=
  match e.state with
  | .reverse => if e.handshake = .takenEnd then (e, []) else e.refuse c .protocol
  | .turningBack => e.releaseIfLow .done
  | .aborting => if e.abortStep = some .waitLines then e.releaseIfLow .aborted else (e, [])
  | .held => e.leaveHeld
  | .idle => (e, [])
  | .forward => (e, [])
  | .turning => (e, [])

/-! ## Timers -/

/-- The byte timer has expired (R63, R68, R71). -/
def Engine.byteExpiry (e : Engine) (c : BayConfig) : Engine × List Report :=
  match e.state with
  | .forward => e.finish .byteTimeout
  | .reverse => if e.handshake = .takenEnd then e.turnBack c else e.finish .byteTimeout
  | .aborting => if e.abortStep = some .finishByte then (e.sendAbort c, []) else e.finish .aborted
  | .idle => (e, [])
  | .turning => (e, [])
  | .turningBack => (e, [])
  | .held => (e, [])

/-- The turnaround timer has expired (R64, R68, R72). -/
def Engine.turnExpiry (e : Engine) : Engine × List Report :=
  match e.state with
  | .turning => e.finish .turnTimeout
  | .turningBack => e.finish .done
  | .aborting => e.finish .aborted
  | .idle => (e, [])
  | .forward => (e, [])
  | .reverse => (e, [])
  | .held => (e, [])

/-- The held timer has expired: the last-used bay is blamed once (R76). -/
def Engine.heldExpiry (e : Engine) : Engine × List Report :=
  ({ e with heldTimer := none }, (e.lastUsed.map Report.busFault).toList)

/-! ## Abort and abandon -/

/-- An abort request for a piece of work (R70). -/
def Engine.abort (e : Engine) (c : BayConfig) (w : Work) : Engine × List Report :=
  if e.work = some w then
    match e.state with
    | .forward =>
      if e.handshake = .due then (e.sendAbort c, [])
      else ({ e with state := .aborting, abortStep := some .finishByte }, [])
    | .turning => e.waitLines c
    | .reverse => e.waitLines c
    | .turningBack => (e, [])
    | .aborting => (e, [])
    | .idle => (e, [])
    | .held => (e, [])
  else (e, [])

/-- An abandon request for a piece of work (R73). -/
def Engine.abandon (e : Engine) (w : Work) : Engine × List Report :=
  if e.work = some w then e.finish (if e.state = .aborting then .aborted else .abandoned) else (e, [])

/-! ## The engine within the state -/

/-- The configuration record of the selected bay; with no bay selected it is not read. -/
def State.busConfig (s : State) : BayConfig :=
  match s.engine.selected with
  | some b => s.bayConfig b
  | none => BayConfig.atReset

def State.setEngine (s : State) (e : Engine) : State := { s with engine := e }

/-- The engine takes an event, and its reports are handed over. -/
def State.runEngine (s : State) (f : Engine → Engine × List Report) : State :=
  (s.setEngine (f s.engine).1).handAll (f s.engine).2

/-- A report is an abort request for this work. -/
def Report.isAbortOf (w : Work) (r : Report) : Bool := decide (r = .abortRequest w)

/-- Abort requests still on their way for a message that has left the bus are dropped: they name no later message
(R70; assumption log 13). -/
def State.dropAborts (s : State) (w : Work) : State :=
  s.setHanded (s.handed.filter fun r => !r.isAbortOf w)

/-- A report as it stands once the bay has been granted a new identity read: a release report and an identity read's ending
report of that bay are of an earlier message (R87, R133; assumption log 18). -/
def Report.beforeRead (b : BayNo) (r : Report) : Report :=
  match r with
  | .release c x => .release c (x || decide (c = b))
  | .identityEnding c x n l y => .identityEnding c x n l (y || decide (c = b))
  | r => r

/-- The reports on their way are of messages before the bay's new identity read (R87, R133; assumption log 18). -/
def State.beginRead (s : State) (b : BayNo) : State := s.setHanded (s.handed.map (Report.beforeRead b))

/-- The bytes of an offer are stored in the job's blocks, from data byte bytes-in onward (R60, R66, R67). -/
def State.storeOffer (s : State) : State :=
  match s.engine.work with
  | some (.job j) => s.setPool (poolStore s.jobs.pool (s.slot j).blocks s.engine.bytesIn s.engine.received)
  | _ => s

/-- An offer that stands before the engine is examined (R56). -/
def State.takeOffer (s : State) : State :=
  if s.engine.offered then s.storeOffer.runEngine fun e => e.examine s.busConfig else s

end Sys2Proof.Machine
end

