-- ==== Sys2Proof/Machine/JobTable.lean ====
section
/-! DEFINITION. The Job Table (chapters 5 and 6), what a Bay Controller's transition does to the bay's work (R11), the
transitions that need it, and the Bus Arbiter's choice (R114 to R116). -/

namespace Sys2Proof.Machine

/-! ## Slots, tags and blocks -/

/-- A job that counts in its bay's live job count (R91). -/
def Slot.live (k : Slot) : Bool := k.state == .waiting || k.state == .active

/-- A slot that a tag can find: neither FREE nor an orphan (R92). -/
def Slot.findable (k : Slot) : Bool := k.state != .free && !k.orphan

/-- The Job Table's live count of a bay: its jobs WAITING or ACTIVE, orphans included (R91). -/
def State.liveCount (s : State) (b : BayNo) : Nat :=
  (List.finRange 32).countP fun j => (s.slot j).live && decide ((s.slot j).bay = b)

/-- The slot that carries a tag (R92). -/
def State.findTag (s : State) (tag : Word16) : Option SlotNo :=
  (List.finRange 32).find? fun j => (s.slot j).findable && decide ((s.slot j).tag = tag)

/-- The lowest-numbered FREE slot (R100). -/
def State.freeSlot? (s : State) : Option SlotNo := (List.finRange 32).find? fun j => (s.slot j).state == .free

/-- Some slot holds the block. -/
def State.blockHeld (s : State) (n : BlockNo) : Bool := (List.finRange 32).any fun j => (s.slot j).blocks.contains n

/-- The free set, lowest-numbered block first (R93). -/
def State.freeBlocks (s : State) : List BlockNo := (List.finRange 48).filter fun n => !s.blockHeld n

/-- The ACTIVE slot of the part; there is at most one (R91). -/
def State.activeSlot? (s : State) : Option SlotNo := (List.finRange 32).find? fun j => (s.slot j).state == .active

/-- The bay's ACTIVE job. -/
def State.activeOf? (s : State) (b : BayNo) : Option SlotNo :=
  (List.finRange 32).find? fun j => (s.slot j).state == .active && decide ((s.slot j).bay = b)

/-- The Job Table reports a change of a bay's live count to its Bay Controller (R91). -/
def State.reportLive (s : State) (b : BayNo) (fell : Bool) : State := s.hand (.liveCount b (s.liveCount b) fell)

/-! ## The end of a job -/

/-- The slot of a job that has received its final status (R94, R95). -/
def Slot.ended (k : Slot) (st : JobStatus) (bytesOut bytesIn : Nat) : Slot :=
  if k.orphan then Slot.free
  else
    { k with state := .donePending, deadline := none, final := some st, bytesOut := bytesOut, bytesIn := bytesIn,
             blocks := match k.kind with
               | .write => []
               | .exchange => k.blocks }

/-- A job receives its final status (R95). -/
def State.endJob (s : State) (j : SlotNo) (st : JobStatus) (bytesOut bytesIn : Nat) : State :=
  let k := s.slot j
  let s1 := s.setSlot j (k.ended st bytesOut bytesIn)
  let s2 := s1.setQueue k.bay ((s1.queue k.bay).filter fun i => i != j)
  let s3 := s2.setBayCounters k.bay ((s2.bayCounters k.bay).jobEnded st)
  let s4 := s3.reportLive k.bay true
  if k.orphan then s4 else s4.queueNotice (.jobDone j)

/-- The final status by the ending and the abort mark; none where the spec gives none (R122). -/
def finalStatus? (x : Ending) (m : Option AbortMark) : Option JobStatus :=
  match x with
  | .done => some .done
  | .byteTimeout => some .byteTimeout
  | .turnTimeout => some .turnTimeout
  | .protocol => some .protocol
  | .overrun => some .overrun
  | .aborted => m.map AbortMark.status
  | .abandoned => m.map AbortMark.status

/-- An ending by timeout, counted in the timeouts counter (R183). -/
def Ending.timedOut (x : Ending) : Bool := x == .byteTimeout || x == .turnTimeout

/-- The bay's timeouts counter advances for an ending by timeout (R122, R183). -/
def State.countTimeout (s : State) (b : BayNo) (x : Ending) : State :=
  if x.timedOut then s.setBayCounters b (s.bayCounters b).timeout else s

/-- The ending report of an ACTIVE job is taken (R122). A job with no mark that ends ABORTED or ABANDONED takes a free
value for its status (assumption log 5). -/
def State.takeJobEnding (s : State) (j : SlotNo) (x : Ending) (bytesOut bytesIn : Nat) : State :=
  if (s.slot j).state = .active then
    let s1 := s.countTimeout (s.slot j).bay x
    match finalStatus? x (s.slot j).mark with
    | some st => s1.endJob j st bytesOut bytesIn
    | none =>
      (s1.setDraws (s1.freeDraws + 1)).endJob j (Config.unmarkedStatus s1.freeDraws) bytesOut bytesIn
  else s

/-- An ACK has removed the JOB-DONE notice of a slot: the slot becomes FREE (R97). -/
def State.freeSlot (s : State) (j : SlotNo) : State := s.setSlot j Slot.free

/-! ## Bay instructions (R11, R103) -/

/-- The instructions a Bay Controller hands the Job Table, by the table of R11. -/
inductive BayInstruction where
  | bayOff | bayReset | latchOpen | bayFault | bayGone
  deriving DecidableEq, Repr

/-- What an instruction does with the bay's ACTIVE job, and with its identity read (R11). -/
inductive Disposal where
  | runsOn | abort | abandon
  deriving DecidableEq, Repr

/-- The status its WAITING jobs end with (R11). -/
def BayInstruction.status : BayInstruction → JobStatus
  | .bayOff => .bayOff
  | .bayReset => .bayReset
  | .latchOpen => .latchOpen
  | .bayFault => .bayFault
  | .bayGone => .bayGone

/-- The mark it sets on an ACTIVE job; BAY-OFF sets none, its job runs on (R11). -/
def BayInstruction.mark : BayInstruction → Option AbortMark
  | .bayOff => none
  | .bayReset => some .bayReset
  | .latchOpen => some .latchOpen
  | .bayFault => some .bayFault
  | .bayGone => some .bayGone

def BayInstruction.disposal : BayInstruction → Disposal
  | .bayOff => .runsOn
  | .bayReset => .abort
  | .latchOpen => .abandon
  | .bayFault => .abandon
  | .bayGone => .abandon

/-- What an instruction does with a granted identity read: going to DRAINING aborts it (R11, R86). -/
def BayInstruction.readDisposal : BayInstruction → Disposal
  | .bayOff => .abort
  | .bayReset => .abort
  | .latchOpen => .abandon
  | .bayFault => .abandon
  | .bayGone => .abandon

/-- The work is abandoned within the step (R11, R73). -/
def State.abandon (s : State) (w : Work) : State := s.runEngine fun e => e.abandon w

/-- The abort mark of an ACTIVE job is set, unless it carries one (R103). -/
def Slot.marked (k : Slot) (m : Option AbortMark) : Slot := { k with mark := k.mark.or m }

/-- The disposal is applied to the bay's ACTIVE job (R103). -/
def State.disposeJob (s : State) (j : SlotNo) (i : BayInstruction) : State :=
  match i.disposal with
  | .runsOn => s
  | .abort =>
    if (s.slot j).mark.isNone then
      (s.setSlot j ((s.slot j).marked i.mark)).hand (.abortRequest (.job j))
    else s
  | .abandon => (s.setSlot j ((s.slot j).marked i.mark)).abandon (.job j)

/-- The bay's WAITING jobs end from the head of its queue to the tail (R103). -/
def State.endQueue (s : State) (b : BayNo) (st : JobStatus) : State :=
  (s.queue b).foldl (fun t j => t.endJob j st 0 0) s

def Report.isLiveCountOf (b : BayNo) (r : Report) : Bool :=
  match r with
  | .liveCount c _ _ => decide (c = b)
  | _ => false

/-- Within a transition the Bay Controller holds the Job Table's live count as the instruction has left it (R11, R20,
R38); the counts still on their way to it are overtaken (assumption log 3). -/
def State.syncLive (s : State) (b : BayNo) : State :=
  let s1 := s.setBay b { s.bay b with liveJobs := s.liveCount b }
  s1.setHanded (s1.handed.filter fun r => !r.isLiveCountOf b)

/-- A bay instruction is taken by the Job Table in the step of the transition (R103). -/
def State.instruct (s : State) (b : BayNo) (i : BayInstruction) : State :=
  let s1 := s.endQueue b i.status
  let s2 := match s1.activeOf? b with
    | some j => s1.disposeJob j i
    | none => s1
  s2.syncLive b

/-! ## The identity read on leaving IDENTIFYING (R86) -/

def State.setRead (s : State) (b : BayNo) (x : ReadStage) : State := s.setBay b { s.bay b with read := x }

/-- The bay's identity read is removed, aborted or abandoned (R86). -/
def State.leaveRead (s : State) (b : BayNo) (d : Disposal) : State :=
  match (s.bay b).read, d with
  | .candidate, _ => s.setRead b .noRead
  | .onBus, .abort => (s.setRead b .leaving).hand (.abortRequest (.identity b))
  | .onBus, .abandon => (s.setRead b .noRead).abandon (.identity b)
  | .leaving, .abandon => (s.setRead b .noRead).abandon (.identity b)
  | .onBus, .runsOn => s
  | .leaving, .abort => s
  | .leaving, .runsOn => s
  | .noRead, _ => s

/-- A transition takes the bay's work away (R11). -/
def State.takeWork (s : State) (b : BayNo) (i : BayInstruction) : State :=
  (s.instruct b i).leaveRead b i.readDisposal

/-! ## Transitions of a bay that reach its work -/

/-- The causes that advance the power faults counter (R12). -/
def FaultCause.counted : FaultCause → Bool
  | .power => true
  | .powerUp => true
  | .discharge => true
  | .identity => false
  | .bus => false

/-- Entry to FAULTED (R12). -/
def State.faultBay (s : State) (b : BayNo) (k : FaultCause) : State :=
  let s1 := (s.takeWork b .bayFault).actBay b fun r => r.fault k
  if k.counted then s1.setBayCounters b (s1.bayCounters b).powerFault else s1

/-- A BUS fault report is taken (R28). -/
def State.busFault (s : State) (b : BayNo) : State :=
  if (s.bay b).state = .empty ∨ (s.bay b).state = .faulted then s else s.faultBay b .bus

/-- A change of a power line is taken: a loss of power, or nothing (R6, R26). -/
def State.testPower (s : State) (b : BayNo) : State :=
  if (s.bay b).powerLost then s.faultBay b .power else s

/-- Entry to POWERING with a POWER-ON in the slot, and the test of the two power lines (R13, R14, R32, R49). -/
def State.enterPowering (s : State) (b : BayNo) (o : Origin) : State :=
  let s1 := s.setBay b (((s.bay b).accept .powerOn o).ramp (s.bayConfig b))
  if (s1.bay b).pfault then s1.faultBay b .power
  else if (s1.bay b).pgood then s1.setBay b ((s1.bay b).settle (s1.bayConfig b))
  else s1

/-- ACTIVE to DRAINING for a POWER-OFF of the link or of an expired hold-off (R33, R49). -/
def State.powerOff (s : State) (b : BayNo) (o : Origin) : State :=
  (s.takeWork b .bayOff).actBay b fun r => (r.accept .powerOff o).drain (s.bayConfig b)

/-! ## The Bus Arbiter -/

/-- The bay's identity read is a candidate (R114). -/
def State.readCandidate (s : State) (b : BayNo) : Bool := decide ((s.bay b).read = .candidate)

/-- The bay's host job candidate: the head of its queue while the bay is ACTIVE (R114). -/
def State.jobCandidate? (s : State) (b : BayNo) : Option SlotNo :=
  if (s.bay b).state = .active then (s.queue b).head? else none

/-- The bays in the order of a scan: from the bay after the last-served one, round to that bay (R116). -/
def scanOrder (last : BayNo) : List BayNo := (List.finRange 8).map fun i => last + 1 + i

/-- The work that a grant chooses among the candidates (R116). -/
def State.choice? (s : State) : Option Work :=
  match (scanOrder s.lastServed).find? s.readCandidate with
  | some b => some (.identity b)
  | none => ((scanOrder s.lastServed).findSome? s.jobCandidate?).map Work.job

/-- The conditions of a grant but for a candidate: the engine is IDLE and no job is ACTIVE (R116). -/
def State.busFree (s : State) : Bool := decide (s.engine.state = .idle) && s.activeSlot?.isNone

/-- What the engine reads of a host job at selection (R60, R118). -/
def State.jobMessage (s : State) (j : SlotNo) : Message :=
  let k := s.slot j
  { channel := k.channel,
    exchange := decide (k.kind = .exchange),
    compress := k.compress,
    outData := poolLoad s.jobs.pool k.blocks 0 k.outLength,
    inLimit := k.inLimit.getD 0 }

/-- The fixed form of an identity read (R79). -/
def identityMessage : Message := { channel := 0x0F, exchange := true, compress := false, outData := [], inLimit := 32 }

/-- The engine takes the grant (R54), and the last-served bay is set (R115). -/
def State.selectWork (s : State) (w : Work) (b : BayNo) (m : Message) : State :=
  let s1 := s.dropAborts w
  (s1.setEngine (s1.engine.select (s1.bayConfig b) w b m)).setServed b

/-- The grant of a bay's identity read (R80). Reports of the bay's earlier messages end neither this read nor its abort (R87,
R133). -/
def State.grantRead (s : State) (b : BayNo) : State :=
  ((s.beginRead b).setBay b { s.bay b with read := .onBus, identity := none }).selectWork (.identity b) b identityMessage

/-- The slot of a job that has been granted the bus (R118). -/
def Slot.granted (k : Slot) : Slot := { k with state := .active, deadline := none, mark := none, orphan := false }

/-- The grant of a host job (R118). -/
def State.grantJob (s : State) (j : SlotNo) : State :=
  let k := s.slot j
  let s1 := (s.setSlot j k.granted).setQueue k.bay ((s.queue k.bay).filter fun i => i != j)
  s1.selectWork (.job j) k.bay (s1.jobMessage j)

/-- A grant, where its conditions hold (R116). -/
def State.grant (s : State) : State :=
  if s.busFree then
    match s.choice? with
    | some (.identity b) => s.grantRead b
    | some (.job j) => s.grantJob j
    | none => s
  else s

/-! ## Session end (R112) -/

/-- A slot at a session end (R112). -/
def Slot.sessionEnd (k : Slot) : Slot :=
  match k.state with
  | .free => k
  | .waiting => Slot.free
  | .donePending => Slot.free
  | .doneSent => Slot.free
  | .active => if k.orphan then k else { k.marked (some .cancel) with orphan := true }

/-- The abort request that a session end makes for a slot (R112). -/
def Slot.sessionAbort (k : Slot) (j : SlotNo) : List Report :=
  if k.state = .active ∧ k.orphan = false ∧ k.mark = none then [.abortRequest (.job j)] else []

/-- Every live count that a session end lowers is reported (R91, R112). -/
def State.reportFall (before s : State) (b : BayNo) : State :=
  if s.liveCount b < before.liveCount b then s.reportLive b true else s

/-- The Job Table's part of a session end (R112). -/
def State.endSessionJobs (s : State) : State :=
  let s1 := s.setJobs
    { s.jobs with slots := Vector.ofFn fun j => (s.slot j).sessionEnd, queues := Vector.replicate 8 [] }
  let s2 := s1.handAll ((List.finRange 32).flatMap fun j => (s.slot j).sessionAbort j)
  (List.finRange 8).foldl (State.reportFall s) s2

end Sys2Proof.Machine
end

