-- ==== Sys2Proof/Machine/Link.lean ====
section
/-! DEFINITION. The Carrier Link: the CRC and the frame search of the Link Port (chapter 8), the Notice Transmitter
(chapter 9), frame boundaries, session start and end, and the hardware reset of the whole part (R1). -/

namespace Sys2Proof.Machine

/-! ## The CRC (R186) -/

/-- One bit of the CRC register's shift under the polynomial 1021h. -/
def crcShift (c : Word16) : Word16 := if c.msb then (c <<< 1) ^^^ 0x1021 else c <<< 1

/-- One byte, most significant bit first. -/
def crcByte (c : Word16) (b : Byte) : Word16 := (8 : Nat).repeat crcShift (c ^^^ (b.setWidth 16 <<< 8))

def crc16 (l : List Byte) : Word16 := l.foldl crcByte 0xFFFF

/-- The bytes of a frame from LEN to the end of its payload (08, section 8.2). -/
def Frame.body (f : Frame) : List Byte := byteOf (2 + f.payload.length) :: f.kind :: f.seq :: f.payload

/-- A frame as it stands on the line: SYNC, LEN, KIND, SEQ, payload, CRC high byte first (R186). -/
def Frame.bytes (f : Frame) : List Byte := 0x5A :: f.body ++ two (crc16 f.body)

/-! ## The frame search (R149 to R151) -/

/-- What the search finds in the bytes held: the frames accepted in order, how many candidates were discarded, and the
bytes of a candidate that is still incomplete. -/
structure Search where
  frames : List Frame
  discards : Nat
  held : List Byte
  deriving DecidableEq, Repr

def Search.accepting (r : Search) (f : Frame) : Search := { r with frames := f :: r.frames }

def Search.discarding (r : Search) : Search := { r with discards := r.discards + 1 }

/-- The frame that a complete candidate carries after its LEN. -/
def frameOf (body : List Byte) : Frame :=
  { kind := byteAt body 0, seq := byteAt body 1, payload := body.drop 2 }

/-- The bytes from the next SYNC onward. -/
def fromSync (l : List Byte) : List Byte := l.dropWhile fun b => b != 0x5A

/-- The search through held bytes. Every candidate settled is shorter than the last, so the number of bytes bounds the
number of rounds. -/
def search : Nat → List Byte → Search
  | 0, l => { frames := [], discards := 0, held := l }
  | n + 1, l =>
    match fromSync l with
    | [] => { frames := [], discards := 0, held := [] }
    | [x] => { frames := [], discards := 0, held := [x] }
    | x :: len :: t =>
      if len.toNat < 2 ∨ 252 < len.toNat then (search n (len :: t)).discarding
      else if t.length < len.toNat + 2 then { frames := [], discards := 0, held := x :: len :: t }
      else
        let body := t.take len.toNat
        if two (crc16 (len :: body)) = (t.drop len.toNat).take 2 then
          (search n (t.drop (len.toNat + 2))).accepting (frameOf body)
        else (search n (len :: t)).discarding

/-- The result of a search is taken: counters, arrivals, the buffer, and the gap timer where a candidate remains
(R149 to R151). -/
def State.takeSearch (s : State) (r : Search) : State :=
  let s1 := s.setDeviceCounters ((s.counters.device.accept r.frames.length).discard r.discards)
  s1.setPort
    { s1.port with buffer := r.held, arrivals := s1.port.arrivals ++ r.frames,
                   gapTimer := if r.held.isEmpty then none else some gapTime }

/-- A character from LINK_RX (R149). -/
def State.receive (s : State) (c : Byte) : State :=
  s.takeSearch (search (s.port.buffer.length + 1) (s.port.buffer ++ [c]))

/-- The candidate held is discarded with cause gap, and the search resumes after its SYNC (R151). -/
def State.discardGap (s : State) : State :=
  s.takeSearch (search s.port.buffer.length s.port.buffer.tail).discarding

/-! ## Hardware reset (R1, R53, R60, R75, R90, R115, R134, R148, R152, R167, R178, R179, R183) -/

/-- The engine record after a hardware reset: the module lines keep their levels, and a high one means HELD (R60, R75). -/
def Engine.hardwareReset (e : Engine) : Engine × List Report :=
  let e1 := { Engine.atReset with ack := e.ack, revack := e.revack, modByte := e.modByte }
  e1.watch

/-- A hardware reset of the whole part, with the straps as they stand when it ends. The queue of commands is the
model's own and stays; so do the levels of the input lines and the count of free values (assumption logs 2, 5, 17). Frames
accepted and not yet taken, and raises, reports and abort requests handed and not yet taken, are dropped (DESIGN CHOICE,
assumption log 15). -/
def State.hardwareReset (s : State) (cause : ResetCause) (straps : BitVec 2) : State :=
  let r := s.engine.hardwareReset
  { State.reset with
    pending := s.pending,
    bays := Vector.ofFn fun b => (s.bay b).hardwareReset,
    engine := r.1,
    jobs := { State.reset.jobs with pool := s.jobs.pool },
    reporter := { State.reset.reporter with resetCause := cause },
    port := { State.reset.port with rate := straps, straps := straps },
    handed := r.2,
    freeDraws := s.freeDraws }

/-! ## The Notice Transmitter (chapter 9) -/

def Transmitter.anyDue (t : Transmitter) : Bool := t.unacked.any fun u => u.due

def Unacked.markDue (u : Unacked) : Unacked := { u with due := true }

/-- Every unacknowledged entry is marked due (R174, R176). -/
def Transmitter.allDue (t : Transmitter) : Transmitter := { t with unacked := t.unacked.map Unacked.markDue }

/-- The payload and kind of an event notice, from its capture (R193). -/
def captureFrame (num : Byte) : Capture → Frame
  | .bay b set st last cause =>
    { kind := 0x41, seq := num,
      payload := [byteOf b.val, set, st.code] ++ lastResultBytes last ++ [orAbsent FaultCause.code cause] }
  | .device set cause => { kind := 0x42, seq := num, payload := [set, resetCauseCode cause] }

/-- The in data of a done job: the first bytes-in bytes of its blocks, none for a WRITE (R129). -/
def State.inData (s : State) (j : SlotNo) : List Byte :=
  match (s.slot j).kind with
  | .write => []
  | .exchange => poolLoad s.jobs.pool (s.slot j).blocks 0 (s.slot j).bytesIn

/-- The JOB-DONE frame of a slot (R129, R193). -/
def State.jobDoneFrame (s : State) (j : SlotNo) (num : Byte) : Frame :=
  let k := s.slot j
  { kind := 0x40, seq := num,
    payload := two k.tag ++ [orAbsent jobStatusCode k.final, byteOf k.bytesOut, byteOf k.bytesIn] ++ s.inData j }

/-- The frame of a notice with its number, built from its slot or its capture (R193). -/
def State.noticeFrame (s : State) (x : Notice) (num : Byte) : Frame :=
  match x with
  | .jobDone j => s.jobDoneFrame j num
  | .event n =>
    match (s.source n).capture with
    | some c => captureFrame num c
    | none => captureFrame num (s.captureOf n)

/-- The Link Port starts a frame; its characters go back to back (R164). -/
def State.startFrame (s : State) (f : Frame) (notice restart : Bool) : State :=
  s.setPort
    { s.port with sending := some { frame := f, notice := notice, restart := restart,
                                    left := frameTime s.port.rate (f.payload.length + 6) } }

/-- The owner's part of a first send: the slot becomes DONE-SENT, or the capture is stored (R96, R140, R169). -/
def State.ownerSent (s : State) (x : Notice) : State :=
  match x with
  | .jobDone j => s.setSlot j { s.slot j with state := .doneSent }
  | .event n => s.markSent n

/-- The head of the pending list is numbered, moved and sent (R169). -/
def State.sendNotice (s : State) (x : Notice) (rest : List Notice) : State :=
  let num := s.transmitter.next
  let s1 := s.setTransmitter
    { s.transmitter with pending := rest, unacked := s.transmitter.unacked ++ [⟨x, num, false⟩], next := num + 1,
                         ackTimer := none }
  let s2 := s1.ownerSent x
  s2.startFrame (s2.noticeFrame x num) true false

/-- The due mark of the oldest due entry is cleared (R170). -/
def clearFirstDue : List Unacked → List Unacked
  | [] => []
  | u :: t => if u.due then { u with due := false } :: t else u :: clearFirstDue t

/-- The oldest due entry is sent again (R170). -/
def State.resendNotice (s : State) (u : Unacked) : State :=
  let s1 := s.setTransmitter
    { s.transmitter with unacked := clearFirstDue s.transmitter.unacked, ackTimer := none }
  let s2 := s1.setDeviceCounters s1.counters.device.retransmit
  s2.startFrame (s2.noticeFrame u.notice u.number) true false

/-- The frame that the Notice Transmitter offers with the link UP (R170). -/
def State.offerNotice (s : State) : State :=
  match s.transmitter.unacked.find? fun u => u.due with
  | some u => s.resendNotice u
  | none =>
    if s.transmitter.unacked.length < 4 then
      match s.transmitter.pending with
      | x :: rest => s.sendNotice x rest
      | [] => s
    else s

/-- The head reply leaves the queue as its sending starts (R157, R164). -/
def State.sendReply (s : State) (q : QueuedReply) (rest : List QueuedReply) : State :=
  (s.setHandler { s.handler with replies := rest }).startFrame q.frame false q.restart

/-- The Link Port's choice at a frame boundary (R164). -/
def State.boundary (s : State) : State :=
  match s.handler.replies with
  | q :: rest => s.sendReply q rest
  | [] => if s.handler.link = .up then s.offerNotice else s

/-- A reply that joins the queue, or a notice that becomes available, is taken at once where LINK_TX is idle (R164, R170):
the last thing a step does that can make one ready (DEDUCED, assumption log 12). -/
def State.fillLine (s : State) : State := if s.port.sending.isNone then s.boundary else s

/-- The end of a notice frame starts the ack timer where an entry waits and none is due (R173). -/
def State.noticeEnded (s : State) : State :=
  if s.handler.link = .up ∧ s.transmitter.unacked ≠ [] ∧ s.transmitter.anyDue = false then
    s.setTransmitter { s.transmitter with ackTimer := some (ackTime s.config.link) }
  else s

/-- The hardware reset that follows a RESTART's reply samples LRATE[1:0] anew (R148, R161). No command says what the straps
stand at then, so the levels are a free value (DESIGN CHOICE, assumption log 17). -/
def State.restartReset (s : State) : State :=
  (s.setDraws (s.freeDraws + 1)).hardwareReset .restartRequest (Config.restartStraps s.freeDraws)

/-- The last stop bit of a frame has left LINK_TX (R161, R164, R173): after a RESTART's reply the part is reset, else the
boundary is taken. -/
def State.frameEnded (s : State) (f : Sending) : State :=
  let s1 := s.setPort { s.port with sending := none }
  if f.restart then s1.restartReset
  else if f.notice then s1.noticeEnded.boundary
  else s1.boundary

/-- The removal of a notice is handed to its owner (R171). -/
def State.noticeRemoved (s : State) (x : Notice) : State :=
  match x with
  | .jobDone j => s.freeSlot j
  | .event n => s.eventRemoved n

/-- A stale ACK (R172). -/
def State.staleAck (s : State) : State := s.setDeviceCounters s.counters.device.stale

/-- LINK_TX carries a notice frame. -/
def LinkPort.sendingNotice (p : LinkPort) : Bool :=
  match p.sending with
  | some f => f.notice
  | none => false

/-- The ack timer after an ACK that removed entries (R173). -/
def State.ackTimerAfterAck (s : State) : Option Ticks :=
  if s.transmitter.unacked = [] then none
  else if s.transmitter.anyDue || s.port.sendingNotice then s.transmitter.ackTimer
  else some (ackTime s.config.link)

/-- The entries up to the one at this place leave the list, oldest first (R171). -/
def State.removeUpTo (s : State) (i : Nat) : State :=
  let gone := s.transmitter.unacked.take (i + 1)
  let s1 := s.setTransmitter { s.transmitter with unacked := s.transmitter.unacked.drop (i + 1), retries := 0 }
  let s2 := gone.foldl (fun t u => t.noticeRemoved u.notice) s1
  s2.setTransmitter { s2.transmitter with ackTimer := s2.ackTimerAfterAck }

/-- An ACK with a notice number, the link UP (R171, R172). -/
def State.takeAck (s : State) (n : Byte) : State :=
  match s.transmitter.unacked.findIdx? fun u => u.number == n with
  | some i => s.removeUpTo i
  | none => s.staleAck

/-- The ack timer has expired (R174, R175). -/
def State.ackExpired (s : State) : State :=
  let t := { s.transmitter with retries := s.transmitter.retries + 1, ackTimer := none }
  if t.retries ≤ s.config.link.retryLimit.toNat then s.setTransmitter t.allDue
  else (s.setTransmitter t).setHandler { s.handler with link := .stalled }

/-- The return of a STALLED link to UP (R154 step 1, R176). -/
def State.unstall (s : State) : State :=
  if s.handler.link = .stalled then
    (s.setHandler { s.handler with link := .up }).setTransmitter { s.transmitter.allDue with retries := 0 }
  else s

/-! ## Session start and end (R158, R163) -/

/-- The Notice Transmitter's part of a session end (R177). -/
def Transmitter.sessionEnd (t : Transmitter) : Transmitter :=
  { t with pending := [], unacked := [], retries := 0, ackTimer := none }

/-- The Event Reporter's part of a session end (R134). -/
def State.endSessionNotices (s : State) : State :=
  s.setReporter { s.reporter with sources := Vector.ofFn fun n => (s.source n).sessionEnd }

/-- A session end, which leaves these replies in the queue (R157, R163). -/
def State.endSession (s : State) (kept : List QueuedReply) : State :=
  let s1 := s.endSessionJobs.endSessionNotices
  (s1.setTransmitter s1.transmitter.sessionEnd).setHandler
    { s1.handler with link := .down, nonce := none, cache := [], replies := kept }

/-- The session number after the next session start (R152, R158). -/
def nextSession (n : Word16) : Word16 := if n = 0xFFFF then 1 else n + 1

/-- A session start (R158): number and nonce, the link UP, numbering from 0, the start-of-session notices. -/
def State.startSession (s : State) (nonce : Word16) : State :=
  let s1 := s.setHandler
    { s.handler with link := .up, session := nextSession s.handler.session, nonce := some nonce, cache := [] }
  (s1.setTransmitter { s1.transmitter with next := 0 }).startNotices

end Sys2Proof.Machine
end

