-- ==== Sys2Proof/Machine/Requests.lean ====
section
/-! DEFINITION. How the Request Handler takes an accepted frame (R154 to R157, R190), and the reply fields the requests
report (R192). -/

namespace Sys2Proof.Machine

/-! ## Replies -/

/-- The kind of a reply: the request's kind plus 80h (R155). -/
def replyKind (kind : Byte) : Byte := kind + 0x80

/-- A reply: the status, and the reply fields where the status is OK or ACCEPTED (R189). -/
def Frame.reply (f : Frame) (st : Status) (fields : List Byte) : Frame :=
  { kind := replyKind f.kind, seq := f.seq, payload := st.code :: if st.granted then fields else [] }

/-- The kind of a NO-SESSION reply (R154). -/
def noSessionKind (kind : Byte) : Byte := if 1 ≤ kind.toNat ∧ kind.toNat ≤ 0x1F then replyKind kind else 0x80

def Frame.noSession (f : Frame) : Frame :=
  { kind := noSessionKind f.kind, seq := f.seq, payload := [Status.noSession.code] }

/-- The UNKNOWN-REQUEST reply (R155, R192). -/
def Frame.unknown (f : Frame) : Frame :=
  { kind := 0x80, seq := f.seq, payload := [Status.unknownRequest.code, f.kind] }

/-- A reply joins the tail of the reply queue (R157). -/
def State.queueReply (s : State) (r : Frame) (restart : Bool) : State :=
  s.setHandler { s.handler with replies := s.handler.replies ++ [⟨r, restart⟩] }

/-- Room for a new entry: with 8 held, the oldest is removed (R156). -/
def evict (c : List CacheEntry) : List CacheEntry := if 8 ≤ c.length then c.tail else c

/-- A reply is stored at the newest end of the cache (R156). -/
def State.cacheReply (s : State) (seq : Byte) (r : Frame) : State :=
  s.setHandler { s.handler with cache := evict s.handler.cache ++ [⟨seq, r⟩] }

/-- The cached reply of a SEQ (R156). -/
def State.cached? (s : State) (seq : Byte) : Option Frame :=
  (s.handler.cache.find? fun c => c.seq == seq).map CacheEntry.reply

/-! ## The steps of R154 -/

/-- The frame leaves the accepted frames that wait, where it is the oldest of them (R150; assumption log 10). -/
def State.popArrival (s : State) (f : Frame) : State :=
  match s.port.arrivals with
  | g :: t => if g = f then s.setPort { s.port with arrivals := t } else s
  | [] => s

/-- The frame is taken, and a STALLED link becomes UP (R154 step 1). -/
def State.takeFrame (s : State) (f : Frame) : State := (s.popArrival f).unstall

/-- The reply queue is full (R154 step 3). -/
def State.repliesFull (s : State) : Bool := decide (8 ≤ s.handler.replies.length)

/-- A frame dropped for a full reply queue (R154 step 3). -/
def State.dropFrame (s : State) : State := s.setDeviceCounters s.counters.device.drop

/-- A duplicate is answered from the cache (R154 step 6). -/
def State.answerDuplicate (s : State) (r : Frame) : State :=
  (s.setDeviceCounters s.counters.device.duplicate).queueReply r false

/-- A frame that settles before step 7 of R154: its state, or none where the request is executed. -/
def State.settled? (s : State) (f : Frame) : Option State :=
  if s.repliesFull then some s.dropFrame
  else if s.handler.link = .down then some (s.queueReply f.noSession false)
  else (s.cached? f.seq).map s.answerDuplicate

/-- The reply of an executed request is cached and queued (R154 step 7). -/
def State.answer (s : State) (f r : Frame) : State := (s.cacheReply f.seq r).queueReply r false

/-- What the owning block makes of a request: the state, the status and the reply fields. -/
abbrev Served := State × Status × List Byte

/-- The frame is taken through R154: an executed request of a bad length is answered BAD-LENGTH, any other is served
by its owning block (R155, R190). -/
def State.request (s : State) (f : Frame) (goodLength : Bool) (serve : State → Served) : State :=
  let s1 := s.takeFrame f
  match s1.settled? f with
  | some t => t
  | none =>
    if goodLength then
      let a := serve s1
      a.1.answer f (f.reply a.2.1 a.2.2)
    else s1.answer f (f.reply .badLength [])

/-- A CLOSE or RESTART: answered, then the session ends and its reply stays as the queue's only entry (R157, R160,
R161). -/
def State.requestEnd (s : State) (f : Frame) (restart : Bool) : State :=
  let s1 := s.takeFrame f
  match s1.settled? f with
  | some t => t
  | none =>
    if f.payload.isEmpty then s1.endSession [⟨f.reply .ok [], restart⟩] else s1.answer f (f.reply .badLength [])

/-- A frame of no known kind, or a BAY-COMMAND of none of the four commands (R31, R155). -/
def State.requestUnknown (s : State) (f : Frame) : State :=
  let s1 := s.takeFrame f
  match s1.settled? f with
  | some t => t
  | none =>
    if f.kind = 0x10 then
      s1.answer f (f.reply (if lengthIs 2 f.payload then .badArgument else .badLength) [])
    else s1.answer f f.unknown

/-- The OPEN reply (R158, R192). -/
def State.openReply (s : State) (f : Frame) : Frame :=
  f.reply .ok
    (two Config.familyCode ++ [Config.revision, Config.bayCount] ++ two s.handler.session ++
      [resetCauseCode s.reporter.resetCause])

/-- The OPEN reply joins the reply queue; it is not cached (R156, R158). -/
def State.answerOpen (s : State) (f : Frame) : State := s.queueReply (s.openReply f) false

/-- An OPEN (R154, R158, R159, R190). -/
def State.requestOpen (s : State) (f : Frame) : State :=
  let s1 := s.takeFrame f
  if s1.repliesFull then s1.dropFrame
  else if lengthIs 2 f.payload then
    if s1.handler.link = .down then (s1.startSession (wordAt f.payload 0)).answerOpen f
    else if s1.handler.nonce = some (wordAt f.payload 0) then
      (s1.setDeviceCounters s1.counters.device.duplicate).answerOpen f
    else ((s1.endSession []).startSession (wordAt f.payload 0)).answerOpen f
  else if s1.handler.link = .down then s1.queueReply f.noSession false
  else s1.queueReply (f.reply .badLength []) false

/-- An ACK (R154 step 2, R171, R172). -/
def State.requestAck (s : State) (f : Frame) : State :=
  let s1 := s.takeFrame f
  if s1.handler.link = .down then s1
  else if lengthIs 1 f.payload then s1.takeAck (byteAt f.payload 0)
  else s1.staleAck

/-! ## Serving a request at its owning block -/

/-- A request refused with a status, or answered with no fields; the state is as it was. -/
def State.refused (s : State) (st : Status) : Served := (s, st, [])

/-- A request that names a bay; any other byte is refused BAD-ARGUMENT (R191). -/
def State.forBay (s : State) (bay : Byte) (serve : BayNo → Served) : Served :=
  match bayOf? bay with
  | some b => serve b
  | none => s.refused .badArgument

/-- The inputs byte of BAY-STATUS (R192). -/
def inputsByte (r : Bay) : Byte :=
  bitsIf r.presence 0x01 ||| bitsIf r.latchClosed 0x02 ||| bitsIf r.pressed 0x04 ||| bitsIf r.service 0x08

def indicatorBytes (i : Indicator) : List Byte := [i.setting.code, i.driven.code]

/-- A time remaining, 0000h where absent (R189). -/
def timeBytes (t : Option Ticks) : List Byte := two ((t.map remainingMs).getD 0)

/-- The 18 reply fields of BAY-STATUS (R51, R192). -/
def bayStatusFields (r : Bay) : List Byte :=
  [r.state.code, phaseCode r, inputsByte r, orAbsent (fun p => p.command.code) r.pending,
   orAbsent (fun p => p.origin.code) r.pending] ++
    lastResultBytes r.lastResult ++
    [orAbsent FaultCause.code r.cause, orAbsent (fun h => h.target.code) r.holdOff] ++
    timeBytes (r.holdOff.map HoldOff.left) ++ indicatorBytes r.powerLed ++ indicatorBytes r.attnLed ++
    [byteOf r.timeouts, byteOf r.liveJobs]

/-- The reply fields of BAY-IDENTITY (R89, R192). -/
def bayIdentityFields (r : Bay) : List Byte :=
  r.read.code ::
    match r.identity with
    | none => [0x00]
    | some d => 0x01 :: two d.moduleClass ++ [d.revision] ++ two d.channelMap ++ [byteOf d.serial.length] ++ d.serial

/-- The 11 reply fields of JOB-STATUS (R111, R192). -/
def State.jobStatusFields (s : State) (j : SlotNo) : List Byte :=
  let k := s.slot j
  let waiting := k.state == .waiting
  let active := k.state == .active
  let ended := k.state == .donePending || k.state == .doneSent
  [k.state.code, byteOf k.bay.val, k.channel, k.kind.code,
   if waiting then byteOf ((s.queue k.bay).idxOf j) else 0xFF] ++
    timeBytes (if waiting then k.deadline else none) ++
    [orAbsent (fun m : AbortMark => jobStatusCode m.status) (if active then k.mark else none),
     orAbsent jobStatusCode (if ended then k.final else none),
     byteOf (if ended then k.bytesOut else 0), byteOf (if ended then k.bytesIn else 0)]

/-- The counters of a bay in the order of the reply (R192). -/
def BayCounters.bytes (c : BayCounters) : List Byte :=
  two c.jobsDone ++ two c.jobsEnded ++ two c.timeouts ++ two c.powerFaults ++ two c.presses

def DeviceCounters.bytes (c : DeviceCounters) : List Byte :=
  two c.accepted ++ two c.discarded ++ two c.duplicates ++ two c.dropped ++ two c.retransmitted ++ two c.staleAcks

end Sys2Proof.Machine
end

