-- ==== Sys2Proof/Machine/Clock.lean ====
section
/-! DEFINITION. What the part does when no command waits: it takes what its own blocks have handed on, and when there is
nothing to take it lets 10 µs pass (DESIGN CHOICE, assumption log 7). Each command it finds joins the queue, so that the
next step runs it. -/

namespace Sys2Proof.Machine

/-- The command by which a report is taken. -/
def Report.command : Report → Instr
  | .abortRequest w => .abortRequest w
  | .release b _ => .releaseReport b
  | .liveCount b _ _ => .liveCountReport b
  | .timeoutAccounting b _ => .timeoutAccountingReport b
  | .busFault b => .busFaultReport b
  | .identityEnding b _ _ _ _ => .identityEndingReport b
  | .jobEnding j _ _ _ => .jobEndingReport j
  | .raise n _ => .eventRaise n

/-- The command of a BAY-COMMAND frame (R31, R188, R192). -/
def bayCommandOf (f : Frame) : Instr :=
  match f.payload with
  | [bay, c] =>
    if c = 0x01 then .powerOn f.seq bay
    else if c = 0x02 then .powerOff f.seq bay
    else if c = 0x03 then .resetModule f.seq bay
    else if c = 0x04 then .clearFault f.seq bay
    else .unknownRequest f.kind f.seq f.payload
  | _ => .unknownRequest f.kind f.seq f.payload

/-- The command of an accepted frame, by its kind (R187). -/
def Frame.command (f : Frame) : Instr :=
  match f.kind.toNat with
  | 0x01 => .openSession f.seq f.payload
  | 0x02 => .closeSession f.seq f.payload
  | 0x03 => .ping f.seq f.payload
  | 0x04 => .restart f.seq f.payload
  | 0x05 => .ack f.seq f.payload
  | 0x08 => .submit f.seq f.payload
  | 0x09 => .cancel f.seq f.payload
  | 0x0A => .jobStatus f.seq f.payload
  | 0x10 => bayCommandOf f
  | 0x11 => .indicate f.seq f.payload
  | 0x12 => .bayStatus f.seq f.payload
  | 0x13 => .bayIdentity f.seq f.payload
  | 0x14 => .clearEvents f.seq f.payload
  | 0x18 => .setBayConfig f.seq f.payload
  | 0x19 => .getBayConfig f.seq f.payload
  | 0x1A => .setLinkConfig f.seq f.payload
  | 0x1B => .getLinkConfig f.seq f.payload
  | 0x1C => .getCounters f.seq f.payload
  | _ => .unknownRequest f.kind f.seq f.payload

/-- A frame stands ready for LINK_TX with the link UP: a due entry, or the pending head with room (R170). -/
def State.noticeOffered (s : State) : Bool :=
  decide (s.handler.link = .up) &&
    (s.transmitter.anyDue || (decide (s.transmitter.unacked.length < 4) && !s.transmitter.pending.isEmpty))

/-- LINK_TX is idle and a frame is waiting, so a boundary is due (R164). No step leaves a state like this (R157). -/
def State.boundaryDue (s : State) : Bool :=
  s.port.sending.isNone && (!s.handler.replies.isEmpty || s.noticeOffered)

/-! ## The passing of 10 µs -/

/-- A running timer loses one unit. -/
def tick (t : Option Ticks) : Option Ticks := t.map fun n => n - 1

/-- The command of a timer that runs out in this unit. -/
def expiring (t : Option Ticks) (i : Instr) : List Instr :=
  match t with
  | some n => if n ≤ 1 then [i] else []
  | none => []

def HoldOff.tick (h : HoldOff) : HoldOff := { h with left := h.left - 1 }

/-- The timers and debounce counts of a bay after one unit. -/
def Bay.tick (r : Bay) : Bay :=
  { r with
    powerUpTimer := Machine.tick r.powerUpTimer, settleTimer := Machine.tick r.settleTimer,
    dischargeTimer := Machine.tick r.dischargeTimer, pulseTimer := Machine.tick r.pulseTimer,
    presenceCount := Machine.tick r.presenceCount, latchCount := Machine.tick r.latchCount,
    attnCount := Machine.tick r.attnCount, holdOff := r.holdOff.map HoldOff.tick }

/-- The settle expiry by the state the timer runs in (R16, R41). -/
def settleCommand (b : BayNo) (st : BayState) : Instr :=
  if st = .resetting then .settleExpiryResetting b else .settleExpiryPowering b

/-- The commands of a bay's timers and debounce counts that run out in this unit. -/
def Bay.expiries (r : Bay) (b : BayNo) : List Instr :=
  expiring r.presenceCount (if r.presenceLine then .presenceAssert b else .presenceLoss b) ++
    expiring r.latchCount (.latchChange b) ++
    expiring r.attnCount (if r.attnLine then .attentionPress b else .attentionRelease b) ++
    expiring r.powerUpTimer (.powerUpExpiry b) ++ expiring r.settleTimer (settleCommand b r.state) ++
    expiring r.pulseTimer (.resetPulseExpiry b) ++ expiring r.dischargeTimer (.dischargeExpiry b) ++
    expiring (r.holdOff.map HoldOff.left) (.holdOffExpiry b)

def Engine.tick (e : Engine) : Engine :=
  { e with byteTimer := Machine.tick e.byteTimer, turnTimer := Machine.tick e.turnTimer,
           heldTimer := Machine.tick e.heldTimer }

def Engine.expiries (e : Engine) : List Instr :=
  expiring e.byteTimer .byteTimerExpiry ++ expiring e.turnTimer .turnaroundTimerExpiry ++
    expiring e.heldTimer .heldTimerExpiry

def Slot.tick (k : Slot) : Slot := { k with deadline := Machine.tick k.deadline }

def Sending.tick (f : Sending) : Sending := { f with left := f.left - 1 }

def LinkPort.tick (p : LinkPort) : LinkPort :=
  { p with gapTimer := Machine.tick p.gapTimer, sending := p.sending.map Sending.tick }

def LinkPort.expiries (p : LinkPort) : List Instr :=
  expiring p.gapTimer .gapExpiry ++ expiring (p.sending.map Sending.left) .frameSent

/-- The commands of every timer of the part that runs out in this unit. -/
def State.expiries (s : State) : List Instr :=
  (List.finRange 8).flatMap (fun b => (s.bay b).expiries b) ++ s.engine.expiries ++
    (List.finRange 32).flatMap (fun j => expiring (s.slot j).deadline (.deadlineExpiry j)) ++ s.port.expiries ++
    expiring s.transmitter.ackTimer .ackTimerExpiry ++ expiring (some s.blink.left) .blinkToggle

/-- 10 µs pass: every running timer loses one unit, and those that run out put their expiry in the queue. -/
def State.tick (s : State) : State :=
  { s with
    pending := s.expiries,
    bays := Vector.ofFn fun b => (s.bay b).tick,
    engine := s.engine.tick,
    jobs := { s.jobs with slots := Vector.ofFn fun j => (s.slot j).tick },
    port := s.port.tick,
    transmitter := { s.transmitter with ackTimer := Machine.tick s.transmitter.ackTimer },
    blink := { s.blink with left := s.blink.left - 1 } }

/-- The grant's conditions hold and there is a candidate (R116). -/
def State.grantDue (s : State) : Bool := s.busFree && s.choice?.isSome

/-- One step with no command waiting (assumption log 7): a report on its way, a frame boundary, a grant or an accepted
frame is taken next; with none of these, 10 µs pass. -/
def State.idle (s : State) : State :=
  match s.handed with
  | r :: _ => { s with pending := [r.command] }
  | [] =>
    if s.boundaryDue then { s with pending := [.frameSent] }
    else if s.grantDue then { s with pending := [.grant] }
    else
      match s.port.arrivals with
      | f :: _ => { s with pending := [f.command] }
      | [] => s.tick

/-- A command put at the front of the queue, or nothing where a word spells none (assumption log 1). -/
def State.putFirst (s : State) (c : Option Instr) : State :=
  match c with
  | some i => { s with pending := i :: s.pending }
  | none => s

end Sys2Proof.Machine
end

