-- ==== Sys2Proof/Machine/BayRequests.lean ====
section
/-! DEFINITION. The requests a Bay Controller serves: the four bay commands (R31 to R43), INDICATE (R44), BAY-STATUS
(R51) and BAY-IDENTITY (R89). -/

namespace Sys2Proof.Machine

/-- The frame of a BAY-COMMAND (R187, R192). -/
def bayCommand (seq bay command : Byte) : Frame := { kind := 0x10, seq := seq, payload := [bay, command] }

/-- POWER-ON by the bay state (R31, R32). -/
def State.servePowerOn (s : State) (b : BayNo) : Served :=
  match (s.bay b).state with
  | .empty => s.refused .noModule
  | .present => if (s.bay b).latchClosed then (s.enterPowering b .link, .accepted, []) else s.refused .latchOpen
  | .active => s.refused .ok
  | .faulted => s.refused .wrongState
  | .powering => s.refused .bayBusy
  | .identifying => s.refused .bayBusy
  | .resetting => s.refused .bayBusy
  | .draining => s.refused .bayBusy
  | .poweringDown => s.refused .bayBusy

def execPowerOn (seq bay : Byte) (s : State) : Host.Outcome State Fault Refusal :=
  .next (s.request (bayCommand seq bay 0x01) true fun t => t.forBay bay t.servePowerOn).fillLine

/-- POWER-OFF superseding the pending command (R34, R35). -/
def State.supersede (s : State) (b : BayNo) : State :=
  (s.takeWork b .bayOff).actBay b fun r => r.supersede (s.bayConfig b)

/-- POWER-OFF adopted into an empty slot on the way out (R36). -/
def State.adopt (s : State) (b : BayNo) : Served :=
  if (s.bay b).pending.isSome then s.refused .bayBusy
  else (s.setBay b ((s.bay b).accept .powerOff .link), .accepted, [])

/-- POWER-OFF by the bay state (R31, R33 to R36). -/
def State.servePowerOff (s : State) (b : BayNo) : Served :=
  match (s.bay b).state with
  | .empty => s.refused .noModule
  | .present => s.refused .ok
  | .faulted => s.refused .ok
  | .powering => (s.supersede b, .accepted, [])
  | .identifying => (s.supersede b, .accepted, [])
  | .resetting => (s.supersede b, .accepted, [])
  | .active => (s.powerOff b .link, .accepted, [])
  | .draining => s.adopt b
  | .poweringDown => s.adopt b

def execPowerOff (seq bay : Byte) (s : State) : Host.Outcome State Fault Refusal :=
  .next (s.request (bayCommand seq bay 0x02) true fun t => t.forBay bay t.servePowerOff).fillLine

/-- RESET-MODULE accepted in ACTIVE (R38). -/
def State.resetBay (s : State) (b : BayNo) : State :=
  let s1 := s.takeWork b .bayReset
  s1.setBay b ((s1.bay b).accept .resetModule .link).resetModule

/-- RESET-MODULE by the bay state (R31, R38). -/
def State.serveResetModule (s : State) (b : BayNo) : Served :=
  match (s.bay b).state with
  | .empty => s.refused .noModule
  | .present => s.refused .wrongState
  | .faulted => s.refused .wrongState
  | .active => (s.resetBay b, .accepted, [])
  | .powering => s.refused .bayBusy
  | .identifying => s.refused .bayBusy
  | .resetting => s.refused .bayBusy
  | .draining => s.refused .bayBusy
  | .poweringDown => s.refused .bayBusy

def execResetModule (seq bay : Byte) (s : State) : Host.Outcome State Fault Refusal :=
  .next (s.request (bayCommand seq bay 0x03) true fun t => t.forBay bay t.serveResetModule).fillLine

/-- CLEAR-FAULT by the bay state (R31, R43). -/
def State.serveClearFault (s : State) (b : BayNo) : Served :=
  match (s.bay b).state with
  | .empty => s.refused .noModule
  | .faulted =>
    if (s.bay b).pgood then s.refused .powerPresent else (s.setBay b (s.bay b).clearFault, .ok, [])
  | .present => s.refused .wrongState
  | .powering => s.refused .wrongState
  | .identifying => s.refused .wrongState
  | .active => s.refused .wrongState
  | .resetting => s.refused .wrongState
  | .draining => s.refused .wrongState
  | .poweringDown => s.refused .wrongState

def execClearFault (seq bay : Byte) (s : State) : Host.Outcome State Fault Refusal :=
  .next (s.request (bayCommand seq bay 0x04) true fun t => t.forBay bay t.serveClearFault).fillLine

/-- The setting of one indicator stored, the driven value brought up to date (R44, R45). -/
def Bay.setIndicator (r : Bay) (isAttention : Bool) (v : Setting) : Bay :=
  Bay.relit
    (if isAttention then { r with attnLed := { r.attnLed with setting := v } }
    else { r with powerLed := { r.powerLed with setting := v } })

/-- INDICATE with its arguments checked (R44, R191). -/
def State.serveIndicate (s : State) (p : List Byte) : Served :=
  s.forBay (byteAt p 0) fun b =>
    match Setting.ofCode (byteAt p 2) with
    | some v =>
      if (byteAt p 1).toNat ≤ 1 then
        (s.setBay b ((s.bay b).setIndicator (byteAt p 1 == 0x01) v), .ok, [])
      else s.refused .badArgument
    | none => s.refused .badArgument

def execIndicate (seq : Byte) (p : List Byte) (s : State) : Host.Outcome State Fault Refusal :=
  .next (s.request ⟨0x11, seq, p⟩ (lengthIs 3 p) fun t => t.serveIndicate p).fillLine

/-- BAY-STATUS (R51). -/
def State.serveBayStatus (s : State) (p : List Byte) : Served :=
  s.forBay (byteAt p 0) fun b => (s, .ok, bayStatusFields (s.bay b))

def execBayStatus (seq : Byte) (p : List Byte) (s : State) : Host.Outcome State Fault Refusal :=
  .next (s.request ⟨0x12, seq, p⟩ (lengthIs 1 p) fun t => t.serveBayStatus p).fillLine

/-- BAY-IDENTITY (R89). -/
def State.serveBayIdentity (s : State) (p : List Byte) : Served :=
  s.forBay (byteAt p 0) fun b => (s, .ok, bayIdentityFields (s.bay b))

def execBayIdentity (seq : Byte) (p : List Byte) (s : State) : Host.Outcome State Fault Refusal :=
  .next (s.request ⟨0x13, seq, p⟩ (lengthIs 1 p) fun t => t.serveBayIdentity p).fillLine

end Sys2Proof.Machine
end

