-- ==== Sys2Proof/Machine/BayTimers.lean ====
section
/-! DEFINITION. The expiries of the bay timers and of the blink cycle (chapters 1 and 2). An expiry is taken only while
its timer runs (R9; assumption logs 4, 7). -/

namespace Sys2Proof.Machine

/-- The power-up timer expires in phase RAMP (R15). -/
def execPowerUpExpiry (b : BayNo) (s : State) : Host.Outcome State Fault Refusal :=
  .next
    (if (s.bay b).powerUpTimer.isSome ∧ (s.bay b).state = .powering then (s.faultBay b .powerUp).fillLine else s)

/-- The settle timer expires in POWERING phase SETTLE (R16, R79). -/
def execSettleExpiryPowering (b : BayNo) (s : State) : Host.Outcome State Fault Refusal :=
  .next
    (if (s.bay b).settleTimer.isSome ∧ (s.bay b).state = .powering then s.setBay b (s.bay b).identify else s)

/-- The reset pulse timer expires (R40). -/
def execResetPulseExpiry (b : BayNo) (s : State) : Host.Outcome State Fault Refusal :=
  .next
    (if (s.bay b).pulseTimer.isSome ∧ (s.bay b).state = .resetting then
      s.setBay b ((s.bay b).pulseDone (s.bayConfig b))
    else s)

/-- The settle timer expires in RESETTING phase SETTLE (R41, R79). -/
def execSettleExpiryResetting (b : BayNo) (s : State) : Host.Outcome State Fault Refusal :=
  .next
    (if (s.bay b).settleTimer.isSome ∧ (s.bay b).state = .resetting then s.setBay b (s.bay b).identify else s)

/-- The discharge timer expires in POWERING-DOWN (R23). -/
def execDischargeExpiry (b : BayNo) (s : State) : Host.Outcome State Fault Refusal :=
  .next
    (if (s.bay b).dischargeTimer.isSome ∧ (s.bay b).state = .poweringDown then (s.faultBay b .discharge).fillLine
    else s)

/-- The hold-off field removed (R47, R49). -/
def Bay.endHoldOff (r : Bay) : Bay := Bay.relit { r with holdOff := none }

/-- The hold-off expires with its target (R49). -/
def State.holdOffExpired (s : State) (b : BayNo) (t : HoldOffTarget) : State :=
  match t with
  | .off =>
    if (s.bay b).state = .active then (s.setBay b (s.bay b).endHoldOff).powerOff b .button
    else s.setBay b (s.bay b).endHoldOff
  | .on =>
    if (s.bay b).state = .present ∧ (s.bay b).latchClosed then
      (s.setBay b (s.bay b).endHoldOff).enterPowering b .button
    else s.setBay b (s.bay b).endHoldOff

/-- The hold-off timer expires (R49). -/
def execHoldOffExpiry (b : BayNo) (s : State) : Host.Outcome State Fault Refusal :=
  .next
    (match (s.bay b).holdOff with
    | some h => (s.holdOffExpired b h.target).fillLine
    | none => s)

/-- The common blink cycle turns over (R46). -/
def execBlinkToggle (s : State) : Host.Outcome State Fault Refusal :=
  .next (s.setBlink { lit := !s.blink.lit, left := blinkTime })

end Sys2Proof.Machine
end

