-- ==== Sys2Proof/Machine/JobRequests.lean ====
section
/-! DEFINITION. SUBMIT, CANCEL, JOB-STATUS and the deadline expiry (chapter 5). -/

namespace Sys2Proof.Machine

/-- A WAITING job's deadline expires (R105). -/
def execDeadlineExpiry (j : SlotNo) (s : State) : Host.Outcome State Fault Refusal :=
  .next
    (if (s.slot j).state = .waiting ∧ (s.slot j).deadline.isSome then (s.endJob j .expired 0 0).fillLine else s)

/-- The channel is in the channel map of the bay's identity (R88). -/
def Bay.offers (r : Bay) (channel : Byte) : Bool :=
  match r.identity with
  | some d => d.channelMap.getLsbD channel.toNat
  | none => false

/-- The checks 2 to 7 of SUBMIT, in order; the first that fails gives the reply (R99). -/
def State.submitRefusal? (s : State) (x : SubmitFields) : Option Status :=
  if (s.bay x.bay).state = .empty then some .noModule
  else if (s.bay x.bay).state ≠ .active then some .wrongState
  else if !(s.bay x.bay).offers x.channel then some .noChannel
  else if (s.findTag x.tag).isSome then some .tagInUse
  else if 8 ≤ s.liveCount x.bay then some .queueFull
  else if s.freeSlot?.isNone then some .noSlot
  else if s.freeBlocks.length < blocksNeeded x.outData.length x.inLimit then some .noBuffer
  else none

/-- The slot of an accepted job (R93, R100). -/
def SubmitFields.slot (x : SubmitFields) (blocks : List BlockNo) : Slot :=
  { Slot.free with
    state := .waiting, tag := x.tag, bay := x.bay, channel := x.channel, kind := x.kind, compress := x.compress,
    outLength := x.outData.length, inLimit := x.inLimit, deadline := x.deadline.map ms, blocks := blocks }

/-- A SUBMIT that passes every check takes its slot and blocks (R93, R100). -/
def State.acceptJob (s : State) (j : SlotNo) (x : SubmitFields) : State :=
  let blocks := s.freeBlocks.take (blocksNeeded x.outData.length x.inLimit)
  let s1 := (s.setSlot j (x.slot blocks)).setPool (poolStore s.jobs.pool blocks 0 x.outData)
  let s2 := s1.setQueue x.bay (s1.queue x.bay ++ [j])
  s2.reportLive x.bay false

/-- SUBMIT (R98 to R100). -/
def State.serveSubmit (s : State) (p : List Byte) : Served :=
  match submitFields p with
  | none => s.refused .badArgument
  | some x =>
    match s.submitRefusal? x, s.freeSlot? with
    | none, some j => (s.acceptJob j x, .accepted, [])
    | none, none => s.refused .noSlot
    | some st, _ => s.refused st

def execSubmit (seq : Byte) (p : List Byte) (s : State) : Host.Outcome State Fault Refusal :=
  .next (s.request ⟨0x08, seq, p⟩ (submitLength p) fun t => t.serveSubmit p).fillLine

/-- CANCEL of an ACTIVE job (R107). -/
def State.cancelActive (s : State) (j : SlotNo) : State :=
  if (s.slot j).mark.isNone then
    (s.setSlot j ((s.slot j).marked (some .cancel))).hand (.abortRequest (.job j))
  else s

/-- CANCEL of the slot that carries the tag (R106 to R108). -/
def State.cancelSlot (s : State) (j : SlotNo) : Served :=
  match (s.slot j).state with
  | .waiting => (s.endJob j .canceled 0 0, .ok, [])
  | .active => (s.cancelActive j, .accepted, [])
  | .donePending => s.refused .tooLate
  | .doneSent => s.refused .tooLate
  | .free => s.refused .notFound

def State.serveCancel (s : State) (p : List Byte) : Served :=
  match s.findTag (wordAt p 0) with
  | some j => s.cancelSlot j
  | none => s.refused .notFound

def execCancel (seq : Byte) (p : List Byte) (s : State) : Host.Outcome State Fault Refusal :=
  .next (s.request ⟨0x09, seq, p⟩ (lengthIs 2 p) fun t => t.serveCancel p).fillLine

/-- JOB-STATUS (R111). -/
def State.serveJobStatus (s : State) (p : List Byte) : Served :=
  match s.findTag (wordAt p 0) with
  | some j => (s, .ok, s.jobStatusFields j)
  | none => s.refused .notFound

def execJobStatus (seq : Byte) (p : List Byte) (s : State) : Host.Outcome State Fault Refusal :=
  .next (s.request ⟨0x0A, seq, p⟩ (lengthIs 2 p) fun t => t.serveJobStatus p).fillLine

end Sys2Proof.Machine
end

