-- ==== Sys2Proof/Machine/ModuleBus.lean ====
section
/-! DEFINITION. The Bus Arbiter's grant and the events of the Module Bus Engine: edges of MB_ACK and MB_REVACK, timers,
abort and abandon requests (chapters 3 and 6). A level a line already has is no edge, and an expiry is taken only while
its timer runs (assumption log 4). -/

namespace Sys2Proof.Machine

/-- The Bus Arbiter grants the bus where the conditions of a grant hold (R116). -/
def execGrant (s : State) : Host.Outcome State Fault Refusal := .next s.grant

/-- MB_ACK rises with these levels on MB_CMD and MB_D (R55, R56, R75). -/
def execMbAckRise (lines : BusByte) (s : State) : Host.Outcome State Fault Refusal :=
  .next
    (if s.engine.ack then s
    else
      ((s.setEngine { s.engine with ack := true, modByte := lines }).runEngine Engine.ackRise).takeOffer)

/-- MB_ACK falls (R55, R56, R63, R64, R72, R77). -/
def execMbAckFall (s : State) : Host.Outcome State Fault Refusal :=
  .next
    (if s.engine.ack then
      (s.setEngine { s.engine with ack := false }).runEngine fun e => e.ackFall s.busConfig
    else s)

/-- MB_REVACK rises with these levels on MB_CMD and MB_D (R56, R62, R75). -/
def execMbRevackRise (lines : BusByte) (s : State) : Host.Outcome State Fault Refusal :=
  .next
    (if s.engine.revack then s
    else
      ((s.setEngine { s.engine with revack := true, modByte := lines }).runEngine
        fun e => e.revackRise s.busConfig).takeOffer)

/-- MB_REVACK falls (R59, R64, R72, R77). -/
def execMbRevackFall (s : State) : Host.Outcome State Fault Refusal :=
  .next
    (if s.engine.revack then
      (s.setEngine { s.engine with revack := false }).runEngine fun e => e.revackFall s.busConfig
    else s)

/-- The byte timer expires (R57, R63, R68, R71). -/
def execByteTimerExpiry (s : State) : Host.Outcome State Fault Refusal :=
  .next (if s.engine.byteTimer.isSome then s.runEngine fun e => e.byteExpiry s.busConfig else s)

/-- The turnaround timer expires (R64, R68, R72). -/
def execTurnaroundTimerExpiry (s : State) : Host.Outcome State Fault Refusal :=
  .next (if s.engine.turnTimer.isSome then s.runEngine Engine.turnExpiry else s)

/-- The held timer expires (R76). -/
def execHeldTimerExpiry (s : State) : Host.Outcome State Fault Refusal :=
  .next (if s.engine.heldTimer.isSome then s.runEngine Engine.heldExpiry else s)

/-- One abort request for a piece of work leaves the requests on their way. -/
def Report.abortOf? (w : Work) (r : Report) : Option Unit := if r = .abortRequest w then some () else none

/-- The engine takes an abort request (R70; assumption log 11). -/
def execAbortRequest (w : Work) (s : State) : Host.Outcome State Fault Refusal :=
  .next ((s.takeReport (Report.abortOf? w) fun _ t => t).runEngine fun e => e.abort s.busConfig w)

/-- The engine takes an abandon request (R73; assumption log 11). -/
def execAbandonRequest (w : Work) (s : State) : Host.Outcome State Fault Refusal := .next (s.abandon w)

end Sys2Proof.Machine
end

