-- ==== Sys2Proof/Machine/Reports.lean ====
section
/-! DEFINITION. The reports that one block has handed another, taken by their receiver (R20, R28, R39, R78, R83, R91,
R122, R135). The oldest of its kind is taken; with none on its way nothing happens (assumption log 3). -/

namespace Sys2Proof.Machine

/-! ## Reports to a Bay Controller -/

/-- Whether a release report of the bay is of a message before its present identity read. -/
def Report.releaseOf? (b : BayNo) (r : Report) : Option Bool :=
  match r with
  | .release c x => if c = b then some x else none
  | _ => none

/-- A read that was being aborted is gone from the bus (R86). The release report of an earlier message leaves the read as it is
(R87, R133; assumption log 18). -/
def Bay.readReleased (r : Bay) (earlier : Bool) : Bay :=
  if r.read = .leaving ∧ earlier = false then { r with read := .noRead } else r

/-- The wait for the bus is tested again: DRAINING (R20), or RESETTING phase WAIT-BUS (R39). -/
def Bay.retest (r : Bay) (c : BayConfig) : Bay × Byte := r.testPulse.testDrain c

/-- The release report of a bay (R20, R39, R74, R86, R87). -/
def execReleaseReport (b : BayNo) (s : State) : Host.Outcome State Fault Refusal :=
  .next
    (s.takeReport (Report.releaseOf? b) fun x t => t.actBay b fun r => (r.readReleased x).retest (t.bayConfig b))

/-- The count and direction of a live count report of the bay. -/
def Report.liveCountOf? (b : BayNo) (r : Report) : Option (Nat × Bool) :=
  match r with
  | .liveCount c n fell => if c = b then some (n, fell) else none
  | _ => none

/-- The live job count follows the report; on a fall the wait for the bus is tested again (R20, R39, R91). -/
def Bay.takeLive (r : Bay) (c : BayConfig) (n : Nat) (fell : Bool) : Bay × Byte :=
  if fell then Bay.retest { r with liveJobs := n } c else ({ r with liveJobs := n }, 0)

/-- The Job Table's report of a change of the bay's live job count (R91). -/
def execLiveCountReport (b : BayNo) (s : State) : Host.Outcome State Fault Refusal :=
  .next
    (s.takeReport (Report.liveCountOf? b) fun p t => t.actBay b fun r => r.takeLive (t.bayConfig b) p.1 p.2)

def Report.accountingOf? (b : BayNo) (r : Report) : Option Ending :=
  match r with
  | .timeoutAccounting c x => if c = b then some x else none
  | _ => none

/-- The consecutive timeout count after an ending (R78). -/
def countAfter (x : Ending) (n : Nat) : Nat :=
  match x with
  | .done => 0
  | .byteTimeout => min (n + 1) 15
  | .turnTimeout => min (n + 1) 15
  | .protocol => n
  | .overrun => n
  | .aborted => n
  | .abandoned => n

/-- A timeout accounting report is taken; a raise that reaches the fault limit is a BUS fault report (R78). -/
def State.account (s : State) (b : BayNo) (x : Ending) : State :=
  let n := countAfter x (s.bay b).timeouts
  let s1 := s.setBay b { s.bay b with timeouts := n }
  if x.timedOut && decide ((s.bayConfig b).faultLimit.toNat ≤ n) then s1.busFault b else s1

/-- The engine's timeout accounting report (R78). -/
def execTimeoutAccountingReport (b : BayNo) (s : State) : Host.Outcome State Fault Refusal :=
  .next (s.takeReport (Report.accountingOf? b) fun x t => (t.account b x).fillLine)

def Report.busFaultOf? (b : BayNo) (r : Report) : Option Unit := if r = .busFault b then some () else none

/-- A BUS fault report (R28). -/
def execBusFaultReport (b : BayNo) (s : State) : Host.Outcome State Fault Refusal :=
  .next (s.takeReport (Report.busFaultOf? b) fun _ t => (t.busFault b).fillLine)

/-- What an identity read's ending report carries (R81), and whether it is of a read before the bay's present one. -/
structure ReadEnding where
  ending : Ending
  bytesIn : Nat
  buffer : List Byte
  earlier : Bool
  deriving DecidableEq, Repr

def Report.readEndingOf? (b : BayNo) (r : Report) : Option ReadEnding :=
  match r with
  | .identityEnding c x n l y => if c = b then some ⟨x, n, l, y⟩ else none
  | _ => none

/-- The identity of a valid read (R83, R84). -/
def ReadEnding.identity? (x : ReadEnding) : Option Identity :=
  if x.ending = .done then identityOf? x.bytesIn x.buffer else none

/-- The outcome of the read is taken in IDENTIFYING (R17, R18, R83). -/
def State.takeOutcome (s : State) (b : BayNo) (d : Option Identity) : State :=
  let s1 := s.setRead b .noRead
  match d with
  | some d => s1.actBay b fun r => r.activate d
  | none => s1.faultBay b .identity

/-- An identity read's ending report is taken (R83, R183). It is an outcome in IDENTIFYING with stage ON-BUS only, and only of
the read that is on the bus: an ending of an earlier, abandoned read changes nothing in the bay record (R133; DEDUCED,
assumption log 16). -/
def State.takeReadEnding (s : State) (b : BayNo) (x : ReadEnding) : State :=
  let s1 := s.countTimeout b x.ending
  if (s.bay b).state = .identifying ∧ (s.bay b).read = .onBus ∧ x.earlier = false then s1.takeOutcome b x.identity?
  else s1

/-- An identity read's ending report (R83). -/
def execIdentityEndingReport (b : BayNo) (s : State) : Host.Outcome State Fault Refusal :=
  .next (s.takeReport (Report.readEndingOf? b) fun x t => (t.takeReadEnding b x).fillLine)

/-! ## The ending report of a host job -/

/-- What a host job's ending report carries (R74). -/
structure JobEnding where
  ending : Ending
  bytesOut : Nat
  bytesIn : Nat
  deriving DecidableEq, Repr

def Report.jobEndingOf? (j : SlotNo) (r : Report) : Option JobEnding :=
  match r with
  | .jobEnding i x o n => if i = j then some ⟨x, o, n⟩ else none
  | _ => none

/-- A host job's ending report (R122). -/
def execJobEndingReport (j : SlotNo) (s : State) : Host.Outcome State Fault Refusal :=
  .next (s.takeReport (Report.jobEndingOf? j) fun x t =>
    (t.takeJobEnding j x.ending x.bytesOut x.bytesIn).fillLine)

/-! ## Raises -/

def Report.raiseOf? (n : SourceNo) (r : Report) : Option Byte :=
  match r with
  | .raise m bits => if m = n then some bits else none
  | _ => none

/-- A raise is taken by the Event Reporter (R135). -/
def execEventRaise (n : SourceNo) (s : State) : Host.Outcome State Fault Refusal :=
  .next (s.takeReport (Report.raiseOf? n) fun bits t => (t.recordRaise n bits).fillLine)

end Sys2Proof.Machine
end

