-- ==== Sys2Proof/Machine/Session.lean ====
section
/-! DEFINITION. The Link Port's and the Request Handler's own commands: characters and gaps, sessions, PING, ACK, unknown
requests, frame boundaries and the ack timer (chapters 8 and 9). -/

namespace Sys2Proof.Machine

/-- A character received on LINK_RX (R149). -/
def execLinkRxByte (c : Byte) (s : State) : Host.Outcome State Fault Refusal := .next (s.receive c)

/-- The gap timer expires (R151). -/
def execGapExpiry (s : State) : Host.Outcome State Fault Refusal :=
  .next (if s.port.gapTimer.isSome then s.discardGap else s)

/-- OPEN (R158, R159). -/
def execOpenSession (seq : Byte) (p : List Byte) (s : State) : Host.Outcome State Fault Refusal :=
  .next (s.requestOpen ⟨0x01, seq, p⟩).fillLine

/-- CLOSE (R160). -/
def execCloseSession (seq : Byte) (p : List Byte) (s : State) : Host.Outcome State Fault Refusal :=
  .next (s.requestEnd ⟨0x02, seq, p⟩ false).fillLine

/-- RESTART (R161). -/
def execRestart (seq : Byte) (p : List Byte) (s : State) : Host.Outcome State Fault Refusal :=
  .next (s.requestEnd ⟨0x04, seq, p⟩ true).fillLine

/-- PING (R162). -/
def execPing (seq : Byte) (p : List Byte) (s : State) : Host.Outcome State Fault Refusal :=
  .next (s.request ⟨0x03, seq, p⟩ (pingLength p) fun t => (t, .ok, p)).fillLine

/-- ACK (R171, R172). -/
def execAck (seq : Byte) (p : List Byte) (s : State) : Host.Outcome State Fault Refusal :=
  .next (s.requestAck ⟨0x05, seq, p⟩).fillLine

/-- A frame of a kind that names no request, or a BAY-COMMAND of none of the four commands (R31, R155). -/
def execUnknownRequest (kind seq : Byte) (p : List Byte) (s : State) : Host.Outcome State Fault Refusal :=
  .next (s.requestUnknown ⟨kind, seq, p⟩).fillLine

/-- A frame boundary: the end of the frame on LINK_TX, or a moment when the line is idle (R164). -/
def execFrameSent (s : State) : Host.Outcome State Fault Refusal :=
  .next
    (match s.port.sending with
    | some f => s.frameEnded f
    | none => s.boundary)

/-- The ack timer expires (R174, R175). -/
def execAckTimerExpiry (s : State) : Host.Outcome State Fault Refusal :=
  .next (if s.transmitter.ackTimer.isSome then s.ackExpired.fillLine else s)

end Sys2Proof.Machine
end

