-- ==== Sys2Proof/Machine/Settings.lean ====
section
/-! DEFINITION. CLEAR-EVENTS (R144, R145), the configuration requests (R180, R182) and GET-COUNTERS (R185). -/

namespace Sys2Proof.Machine

/-! ## CLEAR-EVENTS -/

/-- SERVICE holds at a bay: ACTIVE with BAYn_SRQ_n asserted; it does not hold for the device (R144). -/
def State.serviceHolds (s : State) (n : SourceNo) : Bool :=
  match bayOfSource? n with
  | some b => decide ((s.bay b).state = .active) && (s.bay b).service
  | none => false

/-- The bits of the mask leave the source's set (R144 step 2). -/
def State.clearBits (s : State) (n : SourceNo) (mask : Byte) : State :=
  s.setSource n { s.source n with set := (s.source n).set &&& ~~~mask }

/-- SERVICE is raised again where it was cleared and still holds (R144 step 3). -/
def State.serviceAgain (s : State) (n : SourceNo) (cleared : Byte) : State :=
  if cleared &&& SERVICE ≠ 0 ∧ s.serviceHolds n then s.recordRaise n SERVICE else s

/-- The four steps of R144. The notice test of step 4 changes no set, so the reply shows the set of step 3. -/
def State.clearEvents (s : State) (n : SourceNo) (mask : Byte) : State :=
  ((s.clearBits n mask).serviceAgain n ((s.source n).set &&& mask)).noticeTest n

/-- CLEAR-EVENTS with its arguments checked (R144, R191). -/
def State.serveClearEvents (s : State) (p : List Byte) : Served :=
  match sourceOf? (byteAt p 0) with
  | some n =>
    if n = deviceSource ∧ byteAt p 1 &&& ~~~deviceMask ≠ 0 then s.refused .badArgument
    else
      let t := s.clearEvents n (byteAt p 1)
      (t, .ok, [(s.source n).set, (t.source n).set])
  | none => s.refused .badArgument

def execClearEvents (seq : Byte) (p : List Byte) (s : State) : Host.Outcome State Fault Refusal :=
  .next (s.request ⟨0x14, seq, p⟩ (lengthIs 2 p) fun t => t.serveClearEvents p).fillLine

/-! ## Configuration -/

/-- The bays a SET-BAY-CONFIG names, in order: one, or all eight with FFh (R180). -/
def baysNamed? (b : Byte) : Option (List BayNo) :=
  if b = 0xFF then some (List.finRange 8) else (bayOf? b).map fun x => [x]

/-- SET-BAY-CONFIG (R137, R180). -/
def State.serveSetBayConfig (s : State) (p : List Byte) : Served :=
  match baysNamed? (byteAt p 0), bayConfigOf? (p.drop 1) with
  | some bs, some c => (bs.foldl (fun t b => t.storeBayConfig b c) s, .ok, [])
  | _, _ => s.refused .badArgument

def execSetBayConfig (seq : Byte) (p : List Byte) (s : State) : Host.Outcome State Fault Refusal :=
  .next (s.request ⟨0x18, seq, p⟩ (lengthIs 11 p) fun t => t.serveSetBayConfig p).fillLine

/-- GET-BAY-CONFIG (R182). -/
def State.serveGetBayConfig (s : State) (p : List Byte) : Served :=
  s.forBay (byteAt p 0) fun b => (s, .ok, bayConfigBytes (s.bayConfig b))

def execGetBayConfig (seq : Byte) (p : List Byte) (s : State) : Host.Outcome State Fault Refusal :=
  .next (s.request ⟨0x19, seq, p⟩ (lengthIs 1 p) fun t => t.serveGetBayConfig p).fillLine

/-- SET-LINK-CONFIG (R180). -/
def State.serveSetLinkConfig (s : State) (p : List Byte) : Served :=
  match linkConfigOf? p with
  | some c => (s.setLinkConfig c, .ok, [])
  | none => s.refused .badArgument

def execSetLinkConfig (seq : Byte) (p : List Byte) (s : State) : Host.Outcome State Fault Refusal :=
  .next (s.request ⟨0x1A, seq, p⟩ (lengthIs 3 p) fun t => t.serveSetLinkConfig p).fillLine

/-- GET-LINK-CONFIG (R182). -/
def State.serveGetLinkConfig (s : State) : Served := (s, .ok, linkConfigBytes s.config.link)

def execGetLinkConfig (seq : Byte) (p : List Byte) (s : State) : Host.Outcome State Fault Refusal :=
  .next (s.request ⟨0x1B, seq, p⟩ (lengthIs 0 p) State.serveGetLinkConfig).fillLine

/-! ## GET-COUNTERS -/

/-- The counters of a source, in the order of the reply (R192). -/
def State.counterBytes (s : State) (n : SourceNo) : List Byte :=
  match bayOfSource? n with
  | some b => (s.bayCounters b).bytes
  | none => s.counters.device.bytes

/-- Every counter of a source set to 0 (R185). -/
def State.clearCounters (s : State) (n : SourceNo) : State :=
  match bayOfSource? n with
  | some b => s.setBayCounters b BayCounters.zero
  | none => s.setDeviceCounters DeviceCounters.zero

/-- GET-COUNTERS with its arguments checked (R185, R191). -/
def State.serveGetCounters (s : State) (p : List Byte) : Served :=
  match sourceOf? (byteAt p 0) with
  | some n =>
    if byteAt p 1 = 0x00 then (s, .ok, byteAt p 0 :: s.counterBytes n)
    else if byteAt p 1 = 0x01 then (s.clearCounters n, .ok, byteAt p 0 :: s.counterBytes n)
    else s.refused .badArgument
  | none => s.refused .badArgument

def execGetCounters (seq : Byte) (p : List Byte) (s : State) : Host.Outcome State Fault Refusal :=
  .next (s.request ⟨0x1C, seq, p⟩ (lengthIs 2 p) fun t => t.serveGetCounters p).fillLine

end Sys2Proof.Machine
end

