-- ==== Sys2Proof/Machine/Sideband.lean ====
section
/-! DEFINITION. Hardware reset and the sideband inputs of a bay: raw edges, debounced changes, power lines, service line
(chapter 1). An event that cannot occur in the present state leaves it as it is (assumption log 4). -/

namespace Sys2Proof.Machine

/-- A hardware reset of the given cause ends with these strap levels (R1). -/
def execHardwareReset (cause : ResetCause) (straps : BitVec 2) (s : State) : Host.Outcome State Fault Refusal :=
  .next (s.hardwareReset cause straps)

/-- A raw edge on a debounced line (R2). -/
def execSidebandLineEdge (b : BayNo) (line : SideLine) (asserted : Bool) (s : State) :
    Host.Outcome State Fault Refusal :=
  .next (s.setBay b ((s.bay b).edge line asserted))

/-- The debounce count of the presence contact runs toward this level (R2). -/
def Bay.presenceDue (r : Bay) (level : Bool) : Bool :=
  r.presenceCount.isSome && r.presenceLine == level && r.presence != level

/-- A module is taken as seated: PRESENT, with PRESENCE raised (R3). -/
def Bay.insert (r : Bay) : Bay × Byte :=
  ({ r.enter .present with presence := true, presenceCount := none, pen := false, mrst := true }, PRESENCE)

/-- A debounced assertion of presence (R3). -/
def execPresenceAssert (b : BayNo) (s : State) : Host.Outcome State Fault Refusal :=
  .next (if (s.bay b).presenceDue true ∧ (s.bay b).state = .empty then s.actBay b Bay.insert else s)

/-- A debounced loss of presence (R27). -/
def execPresenceLoss (b : BayNo) (s : State) : Host.Outcome State Fault Refusal :=
  .next
    (if (s.bay b).presenceDue false ∧ (s.bay b).state ≠ .empty then
      ((s.takeWork b .bayGone).actBay b Bay.remove).fillLine
    else s)

/-- The recorded latch takes the level of its line (R4). -/
def Bay.recordLatch (r : Bay) : Bay := { r with latchClosed := r.latchLine, latchCount := none }

/-- The states in which a latch opening takes the bay's latch action (R4). -/
def BayState.latchActs : BayState → Bool
  | .powering => true
  | .identifying => true
  | .active => true
  | .resetting => true
  | .empty => false
  | .present => false
  | .draining => false
  | .poweringDown => false
  | .faulted => false

/-- A latch opening with the bay's latch action, LATCH among the bits raised (R4, R24, R25). -/
def State.latchOpened (s : State) (b : BayNo) : State :=
  match (s.bayConfig b).latchAction with
  | .orderly =>
    (s.takeWork b .bayOff).actBay b fun r =>
      ((r.recordLatch.orderly (s.bayConfig b)).1, (r.recordLatch.orderly (s.bayConfig b)).2 ||| LATCH)
  | .immediate =>
    (s.takeWork b .latchOpen).actBay b fun r =>
      ((r.recordLatch.immediate (s.bayConfig b)).1, (r.recordLatch.immediate (s.bayConfig b)).2 ||| LATCH)

/-- A debounced change of the latch is due (R2). -/
def Bay.latchDue (r : Bay) : Bool := r.latchCount.isSome && r.latchLine != r.latchClosed

/-- A debounced change of the latch, in either direction (R4, R24, R25). -/
def execLatchChange (b : BayNo) (s : State) : Host.Outcome State Fault Refusal :=
  .next
    (if (s.bay b).latchDue then
      if (s.bay b).latchLine = false ∧ (s.bay b).state.latchActs then (s.latchOpened b).fillLine
      else s.actBay b fun r => (r.recordLatch, LATCH)
    else s)

/-- The debounce count of the attention button runs toward this level (R2). -/
def Bay.pressDue (r : Bay) (level : Bool) : Bool :=
  r.attnCount.isSome && r.attnLine == level && r.pressed != level

/-- A press taken: ATTENTION, and the offer to the hold-off (R5, R47). -/
def Bay.press (r : Bay) (c : BayConfig) : Bay × Byte :=
  (Bay.offerPress { r with pressed := true, attnCount := none } c, ATTENTION)

/-- A debounced press of the attention button (R5). -/
def execAttentionPress (b : BayNo) (s : State) : Host.Outcome State Fault Refusal :=
  .next
    (if (s.bay b).pressDue true then
      (s.setBayCounters b (s.bayCounters b).press).actBay b fun r => r.press (s.bayConfig b)
    else s)

/-- A debounced release of the attention button (R5). -/
def execAttentionRelease (b : BayNo) (s : State) : Host.Outcome State Fault Refusal :=
  .next
    (if (s.bay b).pressDue false then s.setBay b { s.bay b with pressed := false, attnCount := none } else s)

/-- BAYn_PGOOD rises (R14). -/
def execPgoodRise (b : BayNo) (s : State) : Host.Outcome State Fault Refusal :=
  .next
    (if (s.bay b).pgood then s
    else
      let r := { s.bay b with pgood := true }
      s.setBay b
        (if r.state = .powering ∧ r.powerPhase = some .ramp then r.settle (s.bayConfig b) else r))

/-- BAYn_PGOOD falls (R6, R22, R26). -/
def execPgoodFall (b : BayNo) (s : State) : Host.Outcome State Fault Refusal :=
  .next
    (if (s.bay b).pgood then
      let s1 := s.setBay b { s.bay b with pgood := false }
      State.fillLine (if (s.bay b).state = .poweringDown then s1.actBay b Bay.discharged else s1.testPower b)
    else s)

/-- BAYn_PFAULT_n is asserted (R6, R26). -/
def execPfaultAssert (b : BayNo) (s : State) : Host.Outcome State Fault Refusal :=
  .next
    (if (s.bay b).pfault then s else ((s.setBay b { s.bay b with pfault := true }).testPower b).fillLine)

/-- BAYn_PFAULT_n is deasserted (R6). -/
def execPfaultDeassert (b : BayNo) (s : State) : Host.Outcome State Fault Refusal :=
  .next (s.setBay b { s.bay b with pfault := false })

/-- BAYn_SRQ_n takes a level (R7). -/
def execSrqChange (b : BayNo) (asserted : Bool) (s : State) : Host.Outcome State Fault Refusal :=
  .next
    (s.actBay b fun r =>
      ({ r with service := asserted },
        bitsIf (asserted && !r.service && decide (r.state = .active)) SERVICE))

end Sys2Proof.Machine
end

