-- ==== Sys2Proof/Machine/Dispatch.lean ====
section
/-! DEFINITION. The dispatch: one arm per command, each a direct call of its meaning. -/

namespace Sys2Proof.Machine

def exec (i : Instr) (s : State) : Host.Outcome State Fault Refusal :=
  match i with
  | .hardwareReset cause straps => Sys2Proof.Machine.execHardwareReset cause straps s
  | .sidebandLineEdge bay line asserted => Sys2Proof.Machine.execSidebandLineEdge bay line asserted s
  | .presenceAssert bay => Sys2Proof.Machine.execPresenceAssert bay s
  | .presenceLoss bay => Sys2Proof.Machine.execPresenceLoss bay s
  | .latchChange bay => Sys2Proof.Machine.execLatchChange bay s
  | .attentionPress bay => Sys2Proof.Machine.execAttentionPress bay s
  | .attentionRelease bay => Sys2Proof.Machine.execAttentionRelease bay s
  | .pgoodRise bay => Sys2Proof.Machine.execPgoodRise bay s
  | .pgoodFall bay => Sys2Proof.Machine.execPgoodFall bay s
  | .pfaultAssert bay => Sys2Proof.Machine.execPfaultAssert bay s
  | .srqChange bay asserted => Sys2Proof.Machine.execSrqChange bay asserted s
  | .powerUpExpiry bay => Sys2Proof.Machine.execPowerUpExpiry bay s
  | .settleExpiryPowering bay => Sys2Proof.Machine.execSettleExpiryPowering bay s
  | .resetPulseExpiry bay => Sys2Proof.Machine.execResetPulseExpiry bay s
  | .settleExpiryResetting bay => Sys2Proof.Machine.execSettleExpiryResetting bay s
  | .dischargeExpiry bay => Sys2Proof.Machine.execDischargeExpiry bay s
  | .holdOffExpiry bay => Sys2Proof.Machine.execHoldOffExpiry bay s
  | .blinkToggle => Sys2Proof.Machine.execBlinkToggle s
  | .powerOn seq bay => Sys2Proof.Machine.execPowerOn seq bay s
  | .powerOff seq bay => Sys2Proof.Machine.execPowerOff seq bay s
  | .resetModule seq bay => Sys2Proof.Machine.execResetModule seq bay s
  | .clearFault seq bay => Sys2Proof.Machine.execClearFault seq bay s
  | .indicate seq payload => Sys2Proof.Machine.execIndicate seq payload s
  | .bayStatus seq payload => Sys2Proof.Machine.execBayStatus seq payload s
  | .bayIdentity seq payload => Sys2Proof.Machine.execBayIdentity seq payload s
  | .grant => Sys2Proof.Machine.execGrant s
  | .mbAckRise lines => Sys2Proof.Machine.execMbAckRise lines s
  | .mbAckFall => Sys2Proof.Machine.execMbAckFall s
  | .mbRevackRise lines => Sys2Proof.Machine.execMbRevackRise lines s
  | .mbRevackFall => Sys2Proof.Machine.execMbRevackFall s
  | .byteTimerExpiry => Sys2Proof.Machine.execByteTimerExpiry s
  | .turnaroundTimerExpiry => Sys2Proof.Machine.execTurnaroundTimerExpiry s
  | .heldTimerExpiry => Sys2Proof.Machine.execHeldTimerExpiry s
  | .abortRequest work => Sys2Proof.Machine.execAbortRequest work s
  | .abandonRequest work => Sys2Proof.Machine.execAbandonRequest work s
  | .releaseReport bay => Sys2Proof.Machine.execReleaseReport bay s
  | .liveCountReport bay => Sys2Proof.Machine.execLiveCountReport bay s
  | .timeoutAccountingReport bay => Sys2Proof.Machine.execTimeoutAccountingReport bay s
  | .busFaultReport bay => Sys2Proof.Machine.execBusFaultReport bay s
  | .identityEndingReport bay => Sys2Proof.Machine.execIdentityEndingReport bay s
  | .jobEndingReport slot => Sys2Proof.Machine.execJobEndingReport slot s
  | .deadlineExpiry slot => Sys2Proof.Machine.execDeadlineExpiry slot s
  | .submit seq payload => Sys2Proof.Machine.execSubmit seq payload s
  | .cancel seq payload => Sys2Proof.Machine.execCancel seq payload s
  | .jobStatus seq payload => Sys2Proof.Machine.execJobStatus seq payload s
  | .eventRaise source => Sys2Proof.Machine.execEventRaise source s
  | .clearEvents seq payload => Sys2Proof.Machine.execClearEvents seq payload s
  | .setBayConfig seq payload => Sys2Proof.Machine.execSetBayConfig seq payload s
  | .getBayConfig seq payload => Sys2Proof.Machine.execGetBayConfig seq payload s
  | .setLinkConfig seq payload => Sys2Proof.Machine.execSetLinkConfig seq payload s
  | .getLinkConfig seq payload => Sys2Proof.Machine.execGetLinkConfig seq payload s
  | .getCounters seq payload => Sys2Proof.Machine.execGetCounters seq payload s
  | .linkRxByte char => Sys2Proof.Machine.execLinkRxByte char s
  | .gapExpiry => Sys2Proof.Machine.execGapExpiry s
  | .openSession seq payload => Sys2Proof.Machine.execOpenSession seq payload s
  | .closeSession seq payload => Sys2Proof.Machine.execCloseSession seq payload s
  | .restart seq payload => Sys2Proof.Machine.execRestart seq payload s
  | .ping seq payload => Sys2Proof.Machine.execPing seq payload s
  | .ack seq payload => Sys2Proof.Machine.execAck seq payload s
  | .unknownRequest kind seq payload => Sys2Proof.Machine.execUnknownRequest kind seq payload s
  | .frameSent => Sys2Proof.Machine.execFrameSent s
  | .ackTimerExpiry => Sys2Proof.Machine.execAckTimerExpiry s
  | .pfaultDeassert bay => Sys2Proof.Machine.execPfaultDeassert bay s

end Sys2Proof.Machine
end

