-- ==== Sys2Proof/Machine/Step.lean ====
section
/-! DEFINITION. One step: the command at the front of the queue is run on the state with the queue's rest; with no command
waiting the part's own events and time go on (assumption log 7). -/

namespace Sys2Proof.Machine

def step (s : State) : Host.Outcome State Fault Refusal :=
  match s.pending with
  | c :: rest => exec c { s with pending := rest }
  | [] => .next s.idle

/-- The command that a table word spells, at the front of the queue; no word spells one (assumption log 1). -/
def State.withFetchWord (s : State) (nbits w : Nat) : State := s.putFirst (decodeTableWord nbits w)

end Sys2Proof.Machine
end

