-- ==== Sys2Proof/Safety.lean ====
section
/-! DEFINITION. What a legal state is: the laws the spec states of the part ("This is a law of the part") and the ties
between the fields of each block's record that its rules keep at every step. -/

namespace Sys2Proof.Machine

/-! ## A bay record (chapters 1, 2 and 4) -/

/-- BAYn_PEN and BAYn_MRST_n as the table of 01, section 1.3 gives them for the state (R8, R37). -/
def Bay.LinesLegal (r : Bay) : Prop :=
  r.pen = r.state.powered ∧
    (r.state = .powering → r.mrst = decide (r.powerPhase = some .ramp)) ∧
    (r.state = .resetting → r.mrst = decide (r.resetPhase = some .pulse)) ∧
    (r.state = .identifying ∨ r.state = .active → r.mrst = false) ∧
    (r.state = .empty ∨ r.state = .present ∨ r.state = .poweringDown ∨ r.state = .faulted → r.mrst = true)

/-- The fields that are present only in some states (01, section 1.1; R12, R30, R37, R47). -/
def Bay.FieldsLegal (r : Bay) : Prop :=
  (r.powerPhase.isSome ↔ r.state = .powering) ∧ (r.resetPhase.isSome ↔ r.state = .resetting) ∧
    (r.cause.isSome ↔ r.state = .faulted) ∧ (r.presence = true ↔ r.state ≠ .empty) ∧
    (r.holdOff.isSome → r.state = .present ∨ r.state = .active) ∧
    (r.pending.isSome →
      r.state = .powering ∨ r.state = .identifying ∨ r.state = .resetting ∨ r.state = .draining ∨
        r.state = .poweringDown) ∧
    r.timeouts ≤ 15

/-- A timer runs exactly in the state or phase it belongs to (R9). -/
def Bay.TimersLegal (r : Bay) : Prop :=
  (r.powerUpTimer.isSome ↔ r.powerPhase = some .ramp) ∧
    (r.settleTimer.isSome ↔ r.powerPhase = some .settle ∨ r.resetPhase = some .settle) ∧
    (r.pulseTimer.isSome ↔ r.resetPhase = some .pulse) ∧ (r.dischargeTimer.isSome ↔ r.state = .poweringDown)

/-- The identity read and the identity by the bay state (R79, R85, R86). -/
def Bay.ReadLegal (r : Bay) : Prop :=
  (r.state = .identifying ↔ r.read = .candidate ∨ r.read = .onBus) ∧ (r.read = .leaving → r.state = .draining) ∧
    (r.state = .active ∨ r.state = .resetting → r.identity.isSome) ∧ (r.state = .empty → r.identity = none)

/-- The power lines of a bay at rest: no loss of power stands untaken outside DRAINING, and POWERING-DOWN waits for
BAYn_PGOOD to fall (R6, R21). -/
def Bay.PowerLegal (r : Bay) : Prop :=
  (r.state ≠ .draining → r.powerLost = false) ∧ (r.state = .poweringDown → r.pgood = true)

/-- A debounce count runs exactly while its line differs from the recorded level (R2). -/
def Bay.DebounceLegal (r : Bay) : Prop :=
  (r.presenceCount.isSome ↔ r.presenceLine ≠ r.presence) ∧ (r.latchCount.isSome ↔ r.latchLine ≠ r.latchClosed) ∧
    (r.attnCount.isSome ↔ r.attnLine ≠ r.pressed)

/-- The driven values follow the settings and, under AUTO, the bay (R44, R45). -/
def Bay.LedsLegal (r : Bay) : Prop :=
  r.powerLed.driven = drivenBy r.powerLed.setting r.autoPower ∧
    r.attnLed.driven = drivenBy r.attnLed.setting r.autoAttn

def Bay.Legal (r : Bay) : Prop :=
  r.LinesLegal ∧ r.FieldsLegal ∧ r.TimersLegal ∧ r.ReadLegal ∧ r.PowerLegal ∧ r.DebounceLegal ∧ r.LedsLegal

/-- Every bay record is legal. -/
def State.BaysLegal (s : State) : Prop := ∀ b : BayNo, (s.bay b).Legal

/-! ## The Module Bus Engine (chapter 3) -/

/-- A forward byte is being sent: in FORWARD, or in a forward abort (R53, R71). -/
def Engine.forwarding (e : Engine) : Bool :=
  e.state == .forward || (e.state == .aborting && e.abortStep != some .waitLines)

/-- The engine waits for the module's lines to fall (R64, R72). -/
def Engine.closing (e : Engine) : Bool :=
  e.state == .turningBack || (e.state == .aborting && e.abortStep == some .waitLines)

/-- Work, selection and the lines of the part by the engine state (the table of 03, section 3.4; R52, R53, R74). -/
def Engine.SelectionLegal (e : Engine) : Prop :=
  (e.work = none ↔ e.state = .idle ∨ e.state = .held) ∧ (e.selected = none ↔ e.work = none) ∧
    (∀ b : BayNo, e.work = some (.identity b) → e.selected = some b) ∧ e.selv = e.work.isSome ∧
    e.sel = BitVec.ofNat 3 (e.selected.elim 0 Fin.val) ∧
    (e.selected.isSome → e.lastUsed = e.selected) ∧
    (e.rev = true ↔ e.state = .turning ∨ e.state = .reverse) ∧ (e.abortStep.isSome ↔ e.state = .aborting)

/-- MB_ACK and MB_REVACK by the engine state (R54, R59, R62, R64, R72, R75). -/
def Engine.LinesLegal (e : Engine) : Prop :=
  (e.state = .idle → e.ack = false ∧ e.revack = false) ∧
    (e.state = .held ∨ e.closing = true → e.ack = true ∨ e.revack = true) ∧
    (e.state = .turning → e.revack = false) ∧
    (e.state = .reverse → e.revack = true ∨ e.handshake = .takenEnd)

/-- The byte in hand by the engine state, with MB_STB, MB_ACK and the driven byte (R53, R55, R56). -/
def Engine.HandshakeLegal (e : Engine) : Prop :=
  (e.forwarding = true ↔ e.handshake = .due ∨ e.handshake = .strobed ∨ e.handshake = .acked) ∧
    (e.state = .reverse ↔ e.handshake = .offer ∨ e.handshake = .taken ∨ e.handshake = .takenEnd) ∧
    (e.stb = true ↔ e.handshake = .strobed ∨ e.handshake = .taken ∨ e.handshake = .takenEnd) ∧
    (e.handshake = .strobed ∨ e.handshake = .offer → e.ack = false) ∧
    (e.handshake = .due ∨ e.handshake = .acked ∨ e.handshake = .taken ∨ e.handshake = .takenEnd → e.ack = true) ∧
    (e.drive.isSome ↔ e.forwarding = true) ∧ (e.item.isSome ↔ e.forwarding = true) ∧
    (e.abortStep = some .sendAbort → e.item = some .abort)

/-- The timers by the engine state (R57, R62, R64, R72, R75). -/
def Engine.TimersLegal (e : Engine) : Prop :=
  (e.byteTimer.isSome ↔ e.forwarding = true ∨ e.state = .reverse) ∧
    (e.turnTimer.isSome ↔ e.state = .turning ∨ e.closing = true) ∧ (e.heldTimer.isSome → e.state = .held)

/-- Endings and counts (R60, R61, R63, R67). -/
def Engine.CountsLegal (e : Engine) : Prop :=
  (e.forwarding = true ∨ e.state = .turning → e.ending = none) ∧
    (e.state = .reverse → e.ending = if e.handshake = .takenEnd then some .done else none) ∧
    (e.state = .turningBack → e.ending = some .done) ∧ e.bytesIn ≤ e.message.inLimit

def Engine.Legal (e : Engine) : Prop :=
  e.SelectionLegal ∧ e.LinesLegal ∧ e.HandshakeLegal ∧ e.TimersLegal ∧ e.CountsLegal

/-! ## The Job Table (chapter 5) -/

/-- Every bay has at most 8 jobs WAITING or ACTIVE (R91). -/
def State.LiveLimit (s : State) : Prop := ∀ b : BayNo, s.liveCount b ≤ 8

/-- At most one job is ACTIVE in the whole part (R91). -/
def State.OneActive (s : State) : Prop :=
  ∀ i j : SlotNo, (s.slot i).state = .active → (s.slot j).state = .active → i = j

/-- No two slots that are neither FREE nor marked orphan carry the same tag (R92). -/
def State.TagsDistinct (s : State) : Prop :=
  ∀ i j : SlotNo, (s.slot i).findable = true → (s.slot j).findable = true → (s.slot i).tag = (s.slot j).tag → i = j

/-- No block is held twice (R93). -/
def State.BlocksApart (s : State) : Prop :=
  (∀ j : SlotNo, (s.slot j).blocks.Nodup) ∧
    ∀ i j : SlotNo, ∀ n : BlockNo, n ∈ (s.slot i).blocks → n ∈ (s.slot j).blocks → i = j

/-- Every byte listed lies in the pool's 48 blocks of 32 bytes (R93). -/
def State.PoolBounded (s : State) : Prop := ∀ x ∈ s.jobs.pool, x.1 < 1536

/-- The blocks held by job slots (R93). -/
def State.heldCount (s : State) : Nat := ((List.finRange 32).map fun j => (s.slot j).blocks.length).sum

/-- The fields of a slot by its state (R90). -/
def Slot.Legal (k : Slot) : Prop :=
  (k.state = .free → k = Slot.free) ∧ (k.orphan = true → k.state = .active) ∧
    (k.deadline.isSome → k.state = .waiting) ∧
    (k.final.isSome ↔ k.state = .donePending ∨ k.state = .doneSent) ∧
    (k.mark.isSome → k.state = .active ∨ k.state = .donePending ∨ k.state = .doneSent) ∧
    (k.kind = .write → k.state = .donePending ∨ k.state = .doneSent → k.blocks = [])

def State.SlotsLegal (s : State) : Prop := ∀ j : SlotNo, (s.slot j).Legal

/-- A bay's queue holds its WAITING jobs, each once (R102). -/
def State.QueuesLegal (s : State) : Prop :=
  ∀ b : BayNo, (s.queue b).Nodup ∧ ∀ j : SlotNo, j ∈ s.queue b ↔ (s.slot j).state = .waiting ∧ (s.slot j).bay = b

/-! ## The link (chapters 8 and 9) -/

/-- The reply cache and the reply queue (R152, R156, R157). -/
def Handler.Legal (h : Handler) : Prop :=
  h.cache.length ≤ 8 ∧ (h.cache.map CacheEntry.seq).Nodup ∧ h.replies.length ≤ 8 ∧
    (h.link = .down → h.cache = [] ∧ h.nonce = none) ∧ (h.nonce = none → h.link = .down)

/-- The numbers of n entries in send order, the next number being the one after the last (R169). -/
def numbersBefore (next : Byte) : Nat → List Byte
  | 0 => []
  | n + 1 => (next - byteOf (n + 1)) :: numbersBefore next n

/-- At most four notices are unacknowledged, numbered consecutively in the order sent (R169). -/
def Transmitter.WindowLegal (t : Transmitter) : Prop :=
  t.unacked.length ≤ 4 ∧ t.unacked.map Unacked.number = numbersBefore t.next t.unacked.length

/-- When the ack timer runs, and what the lists hold by the link state (R168, R173, R175). -/
def State.DeliveryLegal (s : State) : Prop :=
  s.transmitter.WindowLegal ∧
    (s.transmitter.ackTimer.isSome →
      s.handler.link = .up ∧ s.transmitter.unacked ≠ [] ∧ s.transmitter.anyDue = false ∧
        s.port.sendingNotice = false) ∧
    (s.handler.link = .stalled → s.transmitter.anyDue = false) ∧
    (s.handler.link = .down → s.transmitter.unacked = [])

/-- No frame waits while LINK_TX is idle (R164, R170); so the reply queue is full only while LINK_TX is busy (R157). -/
def State.NoFrameWaits (s : State) : Prop := s.boundaryDue = false

/-- The request side of the link and the delivery of notices together. -/
def State.LinkLegal (s : State) : Prop := s.handler.Legal ∧ s.DeliveryLegal

/-- The notices of both lists (R168). -/
def State.notices (s : State) : List Notice := s.transmitter.pending ++ s.transmitter.unacked.map Unacked.notice

/-- Each done slot has exactly one JOB-DONE notice in the lists, in the unacknowledged list exactly when the slot is
DONE-SENT, and each such notice has its slot (R96). -/
def State.JobNoticeLaw (s : State) : Prop :=
  ∀ j : SlotNo,
    s.transmitter.pending.count (.jobDone j) = (if (s.slot j).state = .donePending then 1 else 0) ∧
      (s.transmitter.unacked.map Unacked.notice).count (.jobDone j) =
        (if (s.slot j).state = .doneSent then 1 else 0)

/-- Each source has at most one event notice in the lists, and its stage says where (R138; 07, section 7.1). -/
def State.EventNoticeLaw (s : State) : Prop :=
  ∀ n : SourceNo,
    s.transmitter.pending.count (.event n) = (if (s.source n).stage = .pending then 1 else 0) ∧
      (s.transmitter.unacked.map Unacked.notice).count (.event n) = (if (s.source n).stage = .sent then 1 else 0) ∧
      ((s.source n).capture.isSome ↔ (s.source n).stage = .sent) ∧
      ((s.source n).renotify = true → (s.source n).stage = .sent)

/-- With the link DOWN no notice stands in the lists (R168). -/
def State.DownSilent (s : State) : Prop :=
  s.handler.link = .down → s.transmitter.pending = [] ∧ s.transmitter.unacked = []

/-- With the link DOWN a slot is FREE or an orphan (R95, R112). -/
def State.DownOrphans (s : State) : Prop :=
  s.handler.link = .down → ∀ j : SlotNo, (s.slot j).state = .free ∨ ((s.slot j).state = .active ∧ (s.slot j).orphan = true)

/-- The laws that tie the slots to their queues and to the notice lists (R90, R96, R102, R112). -/
def State.JobsLegal (s : State) : Prop :=
  s.SlotsLegal ∧ s.QueuesLegal ∧ s.JobNoticeLaw ∧ s.DownSilent ∧ s.DownOrphans

/-- The Job Table's laws of tags and live counts, with the laws they rest on (R91, R92). -/
def State.TableLegal (s : State) : Prop := s.JobsLegal ∧ s.TagsDistinct ∧ s.LiveLimit

/-- With the link DOWN every notice stage is NONE (R134, R147). -/
def State.DownUnstaged (s : State) : Prop := s.handler.link = .down → ∀ n : SourceNo, (s.source n).stage = .noNotice

/-- The laws that tie the event sources to the notice lists (R138). -/
def State.EventsLegal (s : State) : Prop := s.EventNoticeLaw ∧ s.DownUnstaged

/-! ## Configuration (R178, R179) -/

/-- A bay configuration record is in the ranges of R178. -/
def bayConfigInRange (c : BayConfig) : Prop :=
  c.powerUp ≠ 0 ∧ c.settle ≠ 0 ∧ c.discharge ≠ 0 ∧ c.byteTimeout ≠ 0 ∧ c.turnaround ≠ 0 ∧ c.faultLimit ≠ 0 ∧
    c.faultLimit.toNat ≤ 15 ∧ c.holdOff ≠ 0 ∧ c.holdOff.toNat ≤ 15

def linkConfigInRange (c : LinkConfig) : Prop :=
  5 ≤ c.ackTimeout.toNat ∧ c.ackTimeout.toNat ≤ 1000 ∧ 1 ≤ c.retryLimit.toNat ∧ c.retryLimit.toNat ≤ 8

/-- Every stored setting is in its range, and the retry count in its own (09, section 9.1). -/
def State.SettingsLegal (s : State) : Prop :=
  (∀ b : BayNo, bayConfigInRange (s.bayConfig b)) ∧ linkConfigInRange s.config.link ∧
    (s.transmitter.ackTimer.isSome → s.handler.link = .up) ∧
    (s.handler.link ≠ .stalled → s.transmitter.retries ≤ 8) ∧ s.transmitter.retries ≤ 9

end Sys2Proof.Machine
end

