-- ==== Sys2Proof/WellFormed.lean ====
section
/-! DEFINITION. Which commands can be spelled: a payload fits a frame (LEN is at most 252, 08 section 8.2), and
UNKNOWN_REQUEST carries a frame that no other row carries. -/

namespace Sys2Proof

/-- The request kinds of R187 whose rows carry any payload of that kind. -/
def requestKinds : List Byte :=
  [0x01, 0x02, 0x03, 0x04, 0x05, 0x08, 0x09, 0x0A, 0x11, 0x12, 0x13, 0x14, 0x18, 0x19, 0x1A, 0x1B, 0x1C]

/-- A BAY-COMMAND payload that is one of the four command rows: a bay and a command 01h to 04h (R188, R192). -/
def isBayCommand : List Byte → Bool
  | [_, c] => decide (1 ≤ c.toNat ∧ c.toNat ≤ 4)
  | _ => false

/-- A payload of 0 to 250 bytes (08, section 8.2). -/
def payloadFits (p : List Byte) : Bool := decide (p.length ≤ 250)

/-- The frames UNKNOWN_REQUEST carries: a kind that names no request (R187), or a BAY-COMMAND that names none of the
four commands (R31). -/
def namesNoRequest (kind : Byte) (p : List Byte) : Bool :=
  !requestKinds.contains kind && !(kind == 0x10 && isBayCommand p)

def Instr.wellFormed : Instr → Bool
  | .hardwareReset _ _ => true
  | .sidebandLineEdge _ _ _ => true
  | .presenceAssert _ => true
  | .presenceLoss _ => true
  | .latchChange _ => true
  | .attentionPress _ => true
  | .attentionRelease _ => true
  | .pgoodRise _ => true
  | .pgoodFall _ => true
  | .pfaultAssert _ => true
  | .srqChange _ _ => true
  | .powerUpExpiry _ => true
  | .settleExpiryPowering _ => true
  | .resetPulseExpiry _ => true
  | .settleExpiryResetting _ => true
  | .dischargeExpiry _ => true
  | .holdOffExpiry _ => true
  | .blinkToggle => true
  | .powerOn _ _ => true
  | .powerOff _ _ => true
  | .resetModule _ _ => true
  | .clearFault _ _ => true
  | .indicate _ p => payloadFits p
  | .bayStatus _ p => payloadFits p
  | .bayIdentity _ p => payloadFits p
  | .grant => true
  | .mbAckRise _ => true
  | .mbAckFall => true
  | .mbRevackRise _ => true
  | .mbRevackFall => true
  | .byteTimerExpiry => true
  | .turnaroundTimerExpiry => true
  | .heldTimerExpiry => true
  | .abortRequest _ => true
  | .abandonRequest _ => true
  | .releaseReport _ => true
  | .liveCountReport _ => true
  | .timeoutAccountingReport _ => true
  | .busFaultReport _ => true
  | .identityEndingReport _ => true
  | .jobEndingReport _ => true
  | .deadlineExpiry _ => true
  | .submit _ p => payloadFits p
  | .cancel _ p => payloadFits p
  | .jobStatus _ p => payloadFits p
  | .eventRaise _ => true
  | .clearEvents _ p => payloadFits p
  | .setBayConfig _ p => payloadFits p
  | .getBayConfig _ p => payloadFits p
  | .setLinkConfig _ p => payloadFits p
  | .getLinkConfig _ p => payloadFits p
  | .getCounters _ p => payloadFits p
  | .linkRxByte _ => true
  | .gapExpiry => true
  | .openSession _ p => payloadFits p
  | .closeSession _ p => payloadFits p
  | .restart _ p => payloadFits p
  | .ping _ p => payloadFits p
  | .ack _ p => payloadFits p
  | .unknownRequest k _ p => payloadFits p && namesNoRequest k p
  | .frameSent => true
  | .ackTimerExpiry => true
  | .pfaultDeassert _ => true

end Sys2Proof
end

