-- ==== Sys2Proof/Certificates/Slice0/Obligations.lean ====
section
/-! DEFINITION. The statements about the HC810, one `def Obligations.<Name> : Prop` each, and above them the words they are
written in. Each word says, field by field, what a rule of spec/ gives; where one names a function of the model, that
function has a statement of its own here.

Two functions stand in many statements. `t.fillLine` is `t` after an idle LINK_TX has taken the frame that waits, if there
is one (R164; that this belongs to the step is the model's reading, assumption log 12): FrameBoundarySendsNext spells it.
`s.popArrival f` is `s` with the frame `f` taken from the accepted frames (the model's choice, assumption log 10):
RequestsSettledBeforeExecution spells it. "Nothing else changes" is said beside these two. -/

namespace Sys2Proof.Claims

open Sys2Proof.Machine

/-! ## Words about a bay record -/

/-- Every bay record but this one is as it was. -/
def OtherBaysKept (b : BayNo) (s t : State) : Prop := ∀ c : BayNo, c ≠ b → t.bay c = s.bay c

/-- The first record is the second but for the driven values of the indicators, which follow the settings and the bay (R44,
R45). -/
def SameButLeds (r' r : Bay) : Prop :=
  r' = { r with powerLed := r'.powerLed, attnLed := r'.attnLed } ∧ r'.powerLed.setting = r.powerLed.setting ∧
    r'.attnLed.setting = r.attnLed.setting ∧ r'.LedsLegal

/-- The record with a state just entered: no phase, fault cause or hold-off and no timer of the state left (R9, R12, R48). -/
def entered (r : Bay) (st : BayState) : Bay :=
  { r with state := st, powerPhase := none, resetPhase := none, cause := none, holdOff := none, powerUpTimer := none,
           settleTimer := none, dischargeTimer := none, pulseTimer := none }

/-- The last command result after the pending command, if there is one, has ended (R10, R30). -/
def resultAfter (r : Bay) (x : CommandResult) : Option LastResult :=
  match r.pending with
  | some c => some ⟨c.command, c.origin, x⟩
  | none => r.lastResult

/-- COMMAND, where a command was pending (R10). -/
def commandBit (r : Bay) : Byte := if r.pending.isSome then COMMAND else 0

/-- The reports on their way with one raise more, or as they were where there is nothing to raise (R135). -/
def raised (l : List Report) (n : SourceNo) (bits : Byte) : List Report :=
  if bits = 0 then l else l ++ [.raise n bits]

/-! ## Words about a transition that takes the bay's work away -/

/-- Entry to FAULTED with a cause (R12): power cut, the work disposed of with BAY-FAULT (R11), the pending command FAILED,
FAULT raised, and the power fault counter advanced for POWER, POWER-UP and DISCHARGE. -/
def FaultEntered (k : FaultCause) (b : BayNo) (s t : State) : Prop :=
  let w := s.takeWork b .bayFault
  t = { w with
          bays := t.bays, counters := t.counters,
          handed := w.handed ++ [.raise (baySource b) (commandBit (s.bay b) ||| FAULT)] } ∧
    OtherBaysKept b s t ∧
    SameButLeds (t.bay b)
      { entered (s.bay b) .faulted with
        cause := some k, pen := false, mrst := true, pending := none, lastResult := resultAfter (s.bay b) .failed,
        read := .noRead, liveJobs := t.liveCount b } ∧
    (∀ c : BayNo, c ≠ b → t.bayCounters c = w.bayCounters c) ∧ t.counters.device = s.counters.device ∧
    t.bayCounters b =
      if k = .power ∨ k = .powerUp ∨ k = .discharge then
        { w.bayCounters b with powerFaults := advance (w.bayCounters b).powerFaults }
      else w.bayCounters b

/-- The drain condition (R20): no ACTIVE host job of the bay, and no identity read granted or being aborted. -/
def Drained (r : Bay) : Prop := r.liveJobs = 0 ∧ r.read ≠ .onBus ∧ r.read ≠ .leaving

/-- What becomes of a record that is DRAINING when the drain condition is tested (R20 to R22): it waits, or it passes on to
POWERING-DOWN, or through it to PRESENT where BAYn_PGOOD is low. -/
def Drains (c : BayConfig) (r r' : Bay) (bits : Byte) : Prop :=
  (¬Drained r → SameButLeds r' r ∧ bits = 0) ∧
    (Drained r → r.pgood = true →
      SameButLeds r'
          { entered r .poweringDown with
            pen := false, mrst := true, dischargeTimer := some (dischargeTime c) } ∧
        bits = 0) ∧
    (Drained r → r.pgood = false →
      SameButLeds r'
          { entered r .present with
            pen := false, mrst := true, pending := none, lastResult := resultAfter r .completed } ∧
        bits = commandBit r)

/-- The bay goes out of service through DRAINING (R20): its work is disposed of with BAY-OFF (R11), its record becomes `r`
made DRAINING with BAYn_PEN asserted, the drain condition is tested, and all the bits of the transition are one raise. -/
def GoesOut (b : BayNo) (s t : State) (r : Bay) (bits : Byte) : Prop :=
  let w := s.takeWork b .bayOff
  ∃ more : Byte,
    t = { w with bays := t.bays, handed := raised w.handed (baySource b) (bits ||| more) } ∧ OtherBaysKept b s t ∧
      Drains (s.bayConfig b) { entered r .draining with pen := true } (t.bay b) more

/-- Entry to POWERING with a POWER-ON of this origin in the slot, and the test of the two power lines (R13, R14, R26). -/
def PoweringEntered (o : Origin) (b : BayNo) (s t : State) : Prop :=
  ∃ u : State,
    u = { s with bays := u.bays } ∧ OtherBaysKept b s u ∧
      SameButLeds (u.bay b)
        { entered (s.bay b) .powering with
          pending := some ⟨.powerOn, o⟩, pen := true, mrst := true, powerPhase := some .ramp, timeouts := 0,
          powerUpTimer := some (powerUpTime (s.bayConfig b)) } ∧
      ((s.bay b).pfault = true → FaultEntered .power b u t) ∧
      ((s.bay b).pfault = false → (s.bay b).pgood = true →
        t = { u with bays := t.bays } ∧ OtherBaysKept b s t ∧
          t.bay b =
            { u.bay b with powerUpTimer := none, powerPhase := some .settle, mrst := false,
                           settleTimer := some (settleTime (s.bayConfig b)) }) ∧
      ((s.bay b).pfault = false → (s.bay b).pgood = false → t = u)

/-- The record passes to RESETTING with RESET-MODULE in the slot (R38, R39): the pulse starts at once where the live job count
is 0. -/
def Resets (r r' : Bay) : Prop :=
  let e := { entered r .resetting with pending := some ⟨.resetModule, .link⟩, pen := true }
  SameButLeds r'
    (if r.liveJobs = 0 then { e with mrst := true, resetPhase := some .pulse, pulseTimer := some (ms 1) }
    else { e with mrst := false, resetPhase := some .waitBus })

/-! ## Words about requests -/

/-- The request is executed at step 7 of R154: the link UP, room in the reply queue, no cached reply with its SEQ. -/
def Executes (s : State) (f : Frame) : Prop :=
  s.handler.link = .up ∧ s.handler.replies.length < 8 ∧ ∀ e ∈ s.handler.cache, e.seq ≠ f.seq

/-- The reply to a frame: its kind plus 80h, its SEQ, a status code and the reply fields (R155, R189). -/
def replyTo (f : Frame) (status : Byte) (fields : List Byte) : Frame :=
  { kind := f.kind + 0x80, seq := f.seq, payload := status :: fields }

/-- The cache with a reply stored at the newest end; of 8 entries held the oldest goes (R156). -/
def cachedWith (c : List CacheEntry) (seq : Byte) (r : Frame) : List CacheEntry :=
  (if 8 ≤ c.length then c.tail else c) ++ [⟨seq, r⟩]

/-- The request is answered, and nothing else changes: the reply is stored in the cache and joins the reply queue (R154 step
7, R156, R157). -/
def AnsweredFrom (u t : State) (f : Frame) (status : Byte) (fields : List Byte) : Prop :=
  t = { u with
          handler :=
            { u.handler with
              cache := cachedWith u.handler.cache f.seq (replyTo f status fields),
              replies := u.handler.replies ++ [⟨replyTo f status fields, false⟩] } }

/-- The frame of a command that is an executed request, or none (R187, R188, R192). OPEN and ACK are not executed. -/
def requestFrame? (c : Instr) : Option Frame :=
  match c with
  | .powerOn q b => some ⟨0x10, q, [b, 0x01]⟩
  | .powerOff q b => some ⟨0x10, q, [b, 0x02]⟩
  | .resetModule q b => some ⟨0x10, q, [b, 0x03]⟩
  | .clearFault q b => some ⟨0x10, q, [b, 0x04]⟩
  | .indicate q p => some ⟨0x11, q, p⟩
  | .bayStatus q p => some ⟨0x12, q, p⟩
  | .bayIdentity q p => some ⟨0x13, q, p⟩
  | .submit q p => some ⟨0x08, q, p⟩
  | .cancel q p => some ⟨0x09, q, p⟩
  | .jobStatus q p => some ⟨0x0A, q, p⟩
  | .clearEvents q p => some ⟨0x14, q, p⟩
  | .setBayConfig q p => some ⟨0x18, q, p⟩
  | .getBayConfig q p => some ⟨0x19, q, p⟩
  | .setLinkConfig q p => some ⟨0x1A, q, p⟩
  | .getLinkConfig q p => some ⟨0x1B, q, p⟩
  | .getCounters q p => some ⟨0x1C, q, p⟩
  | .closeSession q p => some ⟨0x02, q, p⟩
  | .restart q p => some ⟨0x04, q, p⟩
  | .ping q p => some ⟨0x03, q, p⟩
  | .unknownRequest k q p => some ⟨k, q, p⟩
  | _ => none

/-- The frame of any command that brings one (R187). -/
def arrivingFrame? (c : Instr) : Option Frame :=
  match c with
  | .openSession q p => some ⟨0x01, q, p⟩
  | .ack q p => some ⟨0x05, q, p⟩
  | _ => requestFrame? c

/-- The payload lengths of R190 by kind. -/
def lengthAllowed (kind : Byte) (n : Nat) : Bool :=
  match kind.toNat with
  | 0x02 => n == 0
  | 0x03 => decide (n ≤ 16)
  | 0x04 => n == 0
  | 0x08 => decide (9 ≤ n ∧ n ≤ 249)
  | 0x09 => n == 2
  | 0x0A => n == 2
  | 0x10 => n == 2
  | 0x11 => n == 3
  | 0x12 => n == 1
  | 0x13 => n == 1
  | 0x14 => n == 2
  | 0x18 => n == 11
  | 0x19 => n == 1
  | 0x1A => n == 3
  | 0x1B => n == 0
  | 0x1C => n == 2
  | _ => true

/-- The commands of BAY-COMMAND (R188). -/
def bayRequest (command : LongCommand) (q b : Byte) : Instr :=
  match command with
  | .powerOn => .powerOn q b
  | .powerOff => .powerOff q b
  | .resetModule => .resetModule q b

/-- The status of a POWER-ON, POWER-OFF or RESET-MODULE that changes nothing, by the bay (the table of R31): 00h OK, 20h
WRONG-STATE, 21h BAY-BUSY, 22h LATCH-OPEN, 23h NO-MODULE; none where the command is ACCEPTED. -/
def unchangedStatus? (command : LongCommand) (r : Bay) : Option Byte :=
  match command, r.state with
  | _, .empty => some 0x23
  | .powerOn, .present => if r.latchClosed then none else some 0x22
  | .powerOn, .active => some 0x00
  | .powerOn, .faulted => some 0x20
  | .powerOn, _ => some 0x21
  | .powerOff, .present => some 0x00
  | .powerOff, .faulted => some 0x00
  | .powerOff, .draining => if r.pending.isSome then some 0x21 else none
  | .powerOff, .poweringDown => if r.pending.isSome then some 0x21 else none
  | .powerOff, _ => none
  | .resetModule, .present => some 0x20
  | .resetModule, .faulted => some 0x20
  | .resetModule, .active => none
  | .resetModule, _ => some 0x21

/-! ## Words about the Module Bus Engine -/

/-- MB_ACK or MB_REVACK is high. -/
def lineHigh (e : Engine) : Bool := e.ack || e.revack

/-- The reports handed as an ending is fixed: the ending report with the counts reached, and the timeout accounting; none
where an ending is fixed already (R60, R74, R78). -/
def endingReports (e : Engine) (x : Ending) : List Report :=
  match e.ending, e.work, e.selected with
  | none, some (.job j), some b => [.jobEnding j x e.bytesOut e.bytesIn, .timeoutAccounting b x]
  | none, some (.identity i), some b => [.identityEnding i x e.bytesIn e.identityBuffer false, .timeoutAccounting b x]
  | _, _, _ => []

/-- The ending of a message once this one has been fixed, unless one was before (R60). -/
def endingAfter (e : Engine) (x : Ending) : Option Ending :=
  match e.ending with
  | some y => some y
  | none => some x

/-- The engine released from this record (R74, R75): no work, no selection, every line of the part let go; IDLE, or HELD with
the held timer of 10 ms where a module line is high. -/
def released (e : Engine) : Engine :=
  { e with
    work := none, selected := none, abortStep := none, pendingRepeat := none, item := none, handshake := .none,
    byteTimer := none, turnTimer := none, sel := 0, selv := false, stb := false, rev := false, drive := none,
    state := if lineHigh e then .held else .idle, heldTimer := if lineHigh e then some (ms 10) else none }

/-- The message ends and the bus is released in one step (R68, R73, R74): from the engine record `e`, with bay `b` selected,
the ending is fixed and reported unless one was fixed before, and the release report and BUS-HELD follow. -/
def MessageEnds (x : Ending) (b : BayNo) (s t : State) (e : Engine) : Prop :=
  t = { s with
          engine := { released e with ending := endingAfter e x },
          handed := s.handed ++ endingReports e x ++ .release b false ::
            if lineHigh e then [.raise deviceSource BUS_HELD] else [] }

/-- A piece of work is abandoned (R73): for work that is not the engine's nothing changes; else the message ends at once, ABORTED
where an abort was in progress and ABANDONED otherwise, unless an ending was fixed before. -/
def Abandoned (w : Work) (s t : State) : Prop :=
  (s.engine.work ≠ some w → t = s) ∧
    ∀ b : BayNo, s.engine.work = some w → s.engine.selected = some b →
      (s.engine.state = .aborting → MessageEnds .aborted b s t s.engine) ∧
        (s.engine.state ≠ .aborting → MessageEnds .abandoned b s t s.engine)

/-- A forward byte is due (R55, R57): it is driven and timed, and MB_STB rises unless MB_ACK is high. -/
def byteDue (c : BayConfig) (e : Engine) (i : ForwardItem) (byte : BusByte) : Engine :=
  { e with
    item := some i, drive := some byte, byteTimer := some c.byteTimeout.toNat, stb := !e.ack,
    handshake := if e.ack then .due else .strobed }

/-- The byte of the forward coder's next piece (R58, R61, R65). -/
def pieceByte (e : Engine) : BusByte :=
  match e.nextPiece with
  | .repeatCount n => ⟨true, byteOf (0x80 + n - 1)⟩
  | .data _ => ⟨false, e.message.outData.getD e.position 0⟩
  | _ => ⟨true, 0x10⟩

/-- The next piece of the out data, or END, is due. -/
def pieceDue (c : BayConfig) (e : Engine) : Engine := byteDue c e e.nextPiece (pieceByte e)

/-- REVERSE with the first offer wait (R57, R62). -/
def reverseEntered (c : BayConfig) (e : Engine) : Engine :=
  { e with state := .reverse, turnTimer := none, handshake := .offer, byteTimer := some c.byteTimeout.toNat }

/-- MB_REV has fallen and the engine waits, at most the turnaround timeout, for the module's lines (R64, R72). -/
def waiting (c : BayConfig) (e : Engine) (st : EngineState) (a : Option AbortStep) : Engine :=
  { e with
    state := st, abortStep := a, stb := false, rev := false, handshake := .none, byteTimer := none,
    turnTimer := some (10 * c.turnaround.toNat) }

/-- The engine waits for the module's lines in this state, or is released at once where both are low (R64, R72). -/
def Closes (x : Ending) (b : BayNo) (c : BayConfig) (s t : State) (e : Engine) (st : EngineState)
    (a : Option AbortStep) : Prop :=
  if lineHigh e then t = { s with engine := waiting c e st a } else MessageEnds x b s t (waiting c e st a)

/-- PROTOCOL or OVERRUN closes the reverse phase (R69): the ending is fixed and reported, then the engine waits in ABORTING
with abort step WAIT-LINES. -/
def Refused (x : Ending) (b : BayNo) (c : BayConfig) (s t : State) (e : Engine) : Prop :=
  Closes .aborted b c { s with handed := s.handed ++ endingReports e x } t { e with ending := endingAfter e x } .aborting
    (some .waitLines)

/-- The engine takes the offered byte (R56, R57). -/
def taken (c : BayConfig) (e : Engine) (h : Handshake) (rep : Option Nat) : Engine :=
  { e with stb := true, handshake := h, byteTimer := some c.byteTimeout.toNat, pendingRepeat := rep }

/-- n copies of the offered byte are stored (R60, R66, R67): in the job's blocks from data byte bytes-in onward, or in the
identity buffer; bytes in rises by n. -/
def stored (s : State) (e : Engine) (n : Nat) : State :=
  let l := List.replicate n e.modByte.data
  match e.work with
  | some (.job j) =>
    { s with jobs := { s.jobs with pool := poolStore s.jobs.pool (s.slot j).blocks e.bytesIn l },
             engine := { e with bytesIn := e.bytesIn + n } }
  | some (.identity _) =>
    { s with engine := { e with bytesIn := e.bytesIn + n, identityBuffer := e.identityBuffer ++ l } }
  | none => { s with engine := { e with bytesIn := e.bytesIn + n } }

/-- What the engine makes of the byte offered to its record `e` in REVERSE (R56, R59, R63, R66, R67), with bay `b` selected
and no ending fixed. -/
def OfferExamined (b : BayNo) (c : BayConfig) (s t : State) (e : Engine) : Prop :=
  let w := e.pendingRepeat.getD 1
  (e.modByte.cmd = false → e.bytesIn + w ≤ e.message.inLimit →
    t = { stored s e w with engine := taken c (stored s e w).engine .taken none }) ∧
    (e.modByte.cmd = false → e.message.inLimit < e.bytesIn + w →
      let u := stored s e (e.message.inLimit - e.bytesIn)
      Refused .overrun b c u t u.engine) ∧
    (e.modByte = ⟨true, 0x10⟩ → e.pendingRepeat = none →
      t = { s with engine := { taken c e .takenEnd none with ending := some .done },
                   handed := s.handed ++ endingReports e .done }) ∧
    (e.modByte.cmd = true → 0x81 ≤ e.modByte.data.toNat → e.pendingRepeat = none →
      t = { s with engine := taken c e .taken (some (e.modByte.data.toNat - 0x7F)) }) ∧
    (e.modByte.cmd = true → e.pendingRepeat ≠ none ∨ (e.modByte.data ≠ 0x10 ∧ e.modByte.data.toNat ≤ 0x80) →
      Refused .protocol b c s t e)

/-- The place of a bay in a scan that starts at the bay after the last-served one (R116). -/
def scanPlace (last b : BayNo) : Nat := (b - (last + 1)).val

/-- A report on its way once bay `b` has been granted a new identity read: a release report and an identity read's ending report
of that bay are of a message before the read (R87, R133; that a report says so is the model's reading, assumption log 18). -/
def ofEarlier (b : BayNo) (r : Report) : Report :=
  match r with
  | .release c x => .release c (x || decide (c = b))
  | .identityEnding c x n l y => .identityEnding c x n l (y || decide (c = b))
  | r => r

/-- The engine after it has taken a grant (R54, R60): the work selected, its counts and coder cleared, and the CHANNEL byte
due. -/
def granted (c : BayConfig) (e : Engine) (w : Work) (b : BayNo) (m : Message) (buffer : List Byte) : Engine :=
  byteDue c
    { e with
      state := .forward, work := some w, selected := some b, ending := none, abortStep := none, bytesOut := 0,
      bytesIn := 0, message := m, position := 0, pendingRepeat := none, identityBuffer := buffer, lastUsed := some b,
      heldTimer := none, turnTimer := none, sel := BitVec.ofNat 3 b.val, selv := true, rev := false }
    .channel ⟨true, m.channel⟩

/-! ## Words about jobs, events and notices -/

/-- The job in slot `j` receives its final status (R94, R95): done, or freed where it is an orphan; out of its bay's queue; its
bay's live count reported as fallen; one of the bay's two job counters advanced; a JOB-DONE notice at the tail of the pending
list, where it is no orphan. Nothing else changes. -/
def JobEnds (j : SlotNo) (st : JobStatus) (bytesOut bytesIn : Nat) (s t : State) : Prop :=
  let k := s.slot j
  t = { s with
          jobs := t.jobs, counters := t.counters,
          transmitter :=
            if k.orphan then s.transmitter
            else { s.transmitter with pending := s.transmitter.pending ++ [.jobDone j] },
          handed := s.handed ++ [.liveCount k.bay (t.liveCount k.bay) true] } ∧
    t.jobs.pool = s.jobs.pool ∧ (∀ i : SlotNo, i ≠ j → t.slot i = s.slot i) ∧
    t.slot j =
      (if k.orphan then Slot.free
      else
        { k with state := .donePending, deadline := none, final := some st, bytesOut := bytesOut, bytesIn := bytesIn,
                 blocks := if k.kind = .write then [] else k.blocks }) ∧
    t.queue k.bay = (s.queue k.bay).filter (fun i => i != j) ∧ (∀ c : BayNo, c ≠ k.bay → t.queue c = s.queue c) ∧
    t.counters.device = s.counters.device ∧ (∀ c : BayNo, c ≠ k.bay → t.bayCounters c = s.bayCounters c) ∧
    t.bayCounters k.bay =
      if st = .done then { s.bayCounters k.bay with jobsDone := advance (s.bayCounters k.bay).jobsDone }
      else { s.bayCounters k.bay with jobsEnded := advance (s.bayCounters k.bay).jobsEnded }

/-- The state with a bay's timeouts counter advanced where the ending is a timeout (R122, R183). -/
def timeoutCounted (s : State) (b : BayNo) (x : Ending) : State :=
  if x = .byteTimeout ∨ x = .turnTimeout then
    s.setBayCounters b { s.bayCounters b with timeouts := advance (s.bayCounters b).timeouts }
  else s

/-- The final status that an abort mark gives (R122). -/
def markStatus (m : AbortMark) : JobStatus :=
  match m with
  | .cancel => .canceled
  | .bayReset => .bayReset
  | .latchOpen => .latchOpen
  | .bayFault => .bayFault
  | .bayGone => .bayGone

/-- A slot that a tag finds: neither FREE nor an orphan (R92). -/
def Carries (s : State) (j : SlotNo) (tag : Word16) : Prop :=
  (s.slot j).state ≠ .free ∧ (s.slot j).orphan = false ∧ (s.slot j).tag = tag

/-- The fields of a SUBMIT that is well formed (R98). -/
def Submittable (x : SubmitFields) : Prop :=
  x.channel.toNat ≤ 14 ∧ x.outData.length ≤ 240 ∧
    (x.kind = .write → x.outData ≠ [] ∧ x.inLimit = none) ∧
    (x.kind = .exchange → ∃ n, x.inLimit = some n ∧ 1 ≤ n ∧ n ≤ 240) ∧
    ∀ d, x.deadline = some d → 1 ≤ d ∧ d ≤ 65535

/-- The payload of a SUBMIT (R188, R192): tag, bay, channel, kind, flags (bit 0 compress, bit 1 deadline present), in limit,
deadline, out data. -/
def submitPayload (x : SubmitFields) : List Byte :=
  [hi x.tag, lo x.tag, byteOf x.bay.val, x.channel, if x.kind = .write then 0x00 else 0x01,
   (if x.compress then 0x01 else 0x00) ||| (if x.deadline.isSome then 0x02 else 0x00), byteOf (x.inLimit.getD 0),
   hi (wordOf (x.deadline.getD 0)), lo (wordOf (x.deadline.getD 0))] ++ x.outData

/-- The notice test of R138 as an outcome for one source: the record and the pending list after it. -/
def Tested (s t : State) (n : SourceNo) : Prop :=
  let due := (s.source n).set &&& s.mask n ≠ 0 ∧ (s.source n).stage = .noNotice ∧ s.handler.link ≠ .down
  t = { s with reporter := t.reporter, transmitter := t.transmitter } ∧
    t.reporter.resetCause = s.reporter.resetCause ∧ (∀ m : SourceNo, m ≠ n → t.source m = s.source m) ∧
    (due → t.source n = { s.source n with stage := .pending } ∧
      t.transmitter = { s.transmitter with pending := s.transmitter.pending ++ [.event n] }) ∧
    (¬due → t.source n = s.source n ∧ t.transmitter = s.transmitter)

/-- Newly enabled bits act by the notice stage of the source (R139): in NONE the notice test, in PENDING nothing, in SENT the
re-notify mark. -/
def NewlyEnabled (s t : State) (n : SourceNo) : Prop :=
  ((s.source n).stage = .noNotice → Tested s t n) ∧ ((s.source n).stage = .pending → t = s) ∧
    ((s.source n).stage = .sent → t = s.setSource n { s.source n with renotify := true })

/-- A raise is recorded (R135): the bits join the set, and bits that it newly sets and the mask enables act by R139. -/
def Recorded (s t : State) (n : SourceNo) (bits : Byte) : Prop :=
  let u := s.setSource n { s.source n with set := (s.source n).set ||| bits }
  (bits &&& ~~~(s.source n).set &&& s.mask n ≠ 0 → NewlyEnabled u t n) ∧
    (bits &&& ~~~(s.source n).set &&& s.mask n = 0 → t = u)

/-- A bay's configuration record is stored (R137, R180): a bit that it newly enables and the bay's event set holds acts by
R139. -/
def RecordStored (c : BayConfig) (b : BayNo) (s t : State) : Prop :=
  let u := s.setBayConfig b c
  let fresh := (s.source (baySource b)).set &&& (c.notifyMask &&& ~~~(s.bayConfig b).notifyMask)
  (fresh ≠ 0 → NewlyEnabled u t (baySource b)) ∧ (fresh = 0 → t = u)

/-- The record is stored for these bays, one after another (R180). -/
def RecordStoredAt (c : BayConfig) : List BayNo → State → State → Prop
  | [], s, t => t = s
  | b :: l, s, t => ∃ u, RecordStored c b s u ∧ RecordStoredAt c l u t

/-- The wait of a bay for the bus is tested again, from the record `r` (R20, R39): in DRAINING the drain condition, in
RESETTING phase WAIT-BUS the live job count; in every other state the record stays as it is. -/
def WaitTested (b : BayNo) (s t : State) (r : Bay) : Prop :=
  ∃ bits : Byte,
    t = { s with bays := t.bays, handed := raised s.handed (baySource b) bits } ∧ OtherBaysKept b s t ∧
      (r.state = .draining → Drains (s.bayConfig b) r (t.bay b) bits) ∧
      (r.state = .resetting → r.resetPhase = some .waitBus → r.liveJobs = 0 →
        t.bay b = { r with mrst := true, resetPhase := some .pulse, pulseTimer := some (ms 1) } ∧ bits = 0) ∧
      (r.state ≠ .draining → (r.state ≠ .resetting ∨ r.resetPhase ≠ some .waitBus ∨ r.liveJobs ≠ 0) →
        t.bay b = r ∧ bits = 0)


/-! ## Words about time -/

/-- The timers and debounce counts of a bay, each with the command of its expiry (R2 to R5, R15, R16, R23, R39 to R41, R49). -/
def bayTimers (r : Bay) (b : BayNo) : List (Option Ticks × Instr) :=
  [(r.presenceCount, if r.presenceLine then .presenceAssert b else .presenceLoss b), (r.latchCount, .latchChange b),
    (r.attnCount, if r.attnLine then .attentionPress b else .attentionRelease b), (r.powerUpTimer, .powerUpExpiry b),
    (r.settleTimer, if r.state = .resetting then .settleExpiryResetting b else .settleExpiryPowering b),
    (r.pulseTimer, .resetPulseExpiry b), (r.dischargeTimer, .dischargeExpiry b),
    (r.holdOff.map HoldOff.left, .holdOffExpiry b)]

/-- Every timer of the part, each with the command of its expiry, in the order in which their expiries join the queue (the
model's choice, assumption log 7): the bays', the engine's (R68, R76), the deadlines (R105), the gap timer (R151), the frame on
LINK_TX (R164), the ack timer (R174) and the blink cycle (R46). -/
def timersRunning (s : State) : List (Option Ticks × Instr) :=
  (List.finRange 8).flatMap (fun b => bayTimers (s.bay b) b) ++
    [(s.engine.byteTimer, .byteTimerExpiry), (s.engine.turnTimer, .turnaroundTimerExpiry),
      (s.engine.heldTimer, .heldTimerExpiry)] ++
    (List.finRange 32).map (fun j => ((s.slot j).deadline, .deadlineExpiry j)) ++
    [(s.port.gapTimer, .gapExpiry), (s.port.sending.map Sending.left, .frameSent),
      (s.transmitter.ackTimer, .ackTimerExpiry), (some s.blink.left, .blinkToggle)]

/-! ## Words about the link -/

/-- The device counters after n advances of the frames accepted and m of the frames discarded (R149, R150, R183). -/
def framesCounted (d : DeviceCounters) (accepted discarded : Nat) : DeviceCounters :=
  { d with accepted := accepted.repeat advance d.accepted, discarded := discarded.repeat advance d.discarded }

/-- The bytes arrive one after another on LINK_RX, from `s`; the state after the last. -/
def Arrives : List Byte → State → State → Prop
  | [], s, t => t = s
  | c :: l, s, t => ∃ u, exec (.linkRxByte c) s = .next u ∧ Arrives l u t

/-- The state in which the search resumes after a discard (R149): one discard counted, nothing held, the gap timer stopped. -/
def searching (s : State) : State :=
  { s with
    port := { s.port with buffer := [], gapTimer := none },
    counters := { s.counters with device := framesCounted s.counters.device 0 1 } }

/-- A session end that leaves these replies in the queue (R112, R134, R157, R163, R177). -/
def SessionEnded (kept : List QueuedReply) (s t : State) : Prop :=
  let stray := fun j : SlotNo =>
    decide ((s.slot j).state = .active ∧ (s.slot j).orphan = false ∧ (s.slot j).mark = none)
  t = { s with
          jobs := t.jobs,
          reporter := t.reporter,
          transmitter := { s.transmitter with pending := [], unacked := [], retries := 0, ackTimer := none },
          handler := { s.handler with link := .down, nonce := none, cache := [], replies := kept },
          handed := s.handed ++ ((List.finRange 32).filter stray).map (fun j => .abortRequest (.job j)) ++
            ((List.finRange 8).filter fun b => decide (t.liveCount b < s.liveCount b)).map
              fun b => .liveCount b (t.liveCount b) true } ∧
    t.jobs.pool = s.jobs.pool ∧ (∀ b : BayNo, t.queue b = []) ∧
    (∀ j : SlotNo,
      ((s.slot j).state ≠ .active → t.slot j = if (s.slot j).state = .free then s.slot j else Slot.free) ∧
        ((s.slot j).state = .active → (s.slot j).orphan = true → t.slot j = s.slot j) ∧
        ((s.slot j).state = .active → (s.slot j).orphan = false →
          t.slot j = { s.slot j with orphan := true, mark := some ((s.slot j).mark.getD .cancel) })) ∧
    t.reporter.resetCause = s.reporter.resetCause ∧
    ∀ n : SourceNo, t.source n = { s.source n with stage := .noNotice, renotify := false, capture := none }

/-- A session start (R146, R158): the session number, the nonce, the link UP, numbering from 0, and a notice for each source
with an enabled bit set, the device first and then bays 0 to 7. -/
def SessionStarted (nonce : Word16) (s t : State) : Prop :=
  let due := fun n : SourceNo => decide ((s.source n).set &&& s.mask n ≠ 0 ∧ (s.source n).stage = .noNotice)
  t = { s with
          reporter := t.reporter,
          handler := { s.handler with
            link := .up, session := if s.handler.session = 0xFFFF then 1 else s.handler.session + 1,
            nonce := some nonce, cache := [] },
          transmitter := { s.transmitter with
            next := 0,
            pending := s.transmitter.pending ++ (([8, 0, 1, 2, 3, 4, 5, 6, 7] : List SourceNo).filter due).map .event } } ∧
    t.reporter.resetCause = s.reporter.resetCause ∧
    ∀ n : SourceNo, t.source n = if due n then { s.source n with stage := .pending } else s.source n

/-- The OPEN reply of the session that the state holds joins the reply queue; it is not cached (R156, R158, R192). -/
def openAnswered (s : State) (q : Byte) : State :=
  { s with handler := { s.handler with
      replies := s.handler.replies ++
        [⟨⟨0x81, q, [0x00, 0x08, 0x10, 0x01, 0x08, hi s.handler.session, lo s.handler.session,
            resetCauseCode s.reporter.resetCause]⟩, false⟩] } }

/-- The removal of a notice by ACK, at its owner (R97, R142, R171). -/
def Removed (x : Notice) (s t : State) : Prop :=
  match x with
  | .jobDone j => t = s.setSlot j Slot.free
  | .event n =>
    let u := s.setSource n { s.source n with stage := .noNotice, renotify := false, capture := none }
    if (s.source n).renotify then Tested u t n else t = u

/-- The removals of one ACK, in order (R171). -/
def RemovedAll : List Notice → State → State → Prop
  | [], s, t => t = s
  | x :: l, s, t => ∃ u, Removed x s u ∧ RemovedAll l u t

/-- The frame of a notice with a number (R193), its in data the first bytes-in bytes of the job's blocks (R129). -/
def noticeAsSent (s : State) (x : Notice) (num : Byte) : Frame :=
  match x with
  | .jobDone j =>
    let k := s.slot j
    ⟨0x40, num,
      [hi k.tag, lo k.tag, (k.final.map jobStatusCode).getD 0xFF, byteOf k.bytesOut, byteOf k.bytesIn] ++
        if k.kind = .write then [] else poolLoad s.jobs.pool k.blocks 0 k.bytesIn⟩
  | .event n =>
    match (s.source n).capture with
    | some (.bay b set st last cause) =>
      ⟨0x41, num, [byteOf b.val, set, st.code] ++ lastResultBytes last ++ [(cause.map FaultCause.code).getD 0xFF]⟩
    | some (.device set cause) => ⟨0x42, num, [set, resetCauseCode cause]⟩
    | none => ⟨0x42, num, []⟩

/-- A frame starts on LINK_TX, back to back at the rate in use (R148, R164). -/
def sendingFrame (s : State) (f : Frame) (notice restart : Bool) : State :=
  { s with port := { s.port with sending := some ⟨f, notice, restart, frameTime s.port.rate (f.payload.length + 6)⟩ } }

/-- A due entry is sent again (R170): the oldest, its mark cleared, the counter advanced, the ack timer stopped. -/
def Resent (s t : State) (before : List Unacked) (x : Unacked) (after : List Unacked) : Prop :=
  let u : State :=
    { s with
      transmitter := { s.transmitter with unacked := before ++ { x with due := false } :: after, ackTimer := none },
      counters := { s.counters with device := { s.counters.device with
        retransmitted := advance s.counters.device.retransmitted } } }
  t = sendingFrame u (noticeAsSent u x.notice x.number) true false

/-- The head of the pending list is numbered, moved and sent (R96, R140, R169). -/
def FirstSent (s t : State) (x : Notice) (rest : List Notice) : Prop :=
  let u : State :=
    { s with transmitter := { s.transmitter with
        pending := rest, unacked := s.transmitter.unacked ++ [⟨x, s.transmitter.next, false⟩],
        next := s.transmitter.next + 1, ackTimer := none } }
  (∀ j, x = .jobDone j →
    let v := u.setSlot j { s.slot j with state := .doneSent }
    t = sendingFrame v (noticeAsSent v x s.transmitter.next) true false) ∧
    (∀ b : BayNo, x = .event (baySource b) →
      let c : Capture :=
        .bay b (s.source (baySource b)).set (s.bay b).state (s.bay b).lastResult (s.bay b).cause
      let v := u.setSource (baySource b) { s.source (baySource b) with stage := .sent, capture := some c }
      t = sendingFrame v (noticeAsSent v x s.transmitter.next) true false) ∧
    (x = .event deviceSource →
      let c : Capture := .device (s.source deviceSource).set s.reporter.resetCause
      let v := u.setSource deviceSource { s.source deviceSource with stage := .sent, capture := some c }
      t = sendingFrame v (noticeAsSent v x s.transmitter.next) true false)

/-- A frame boundary with LINK_TX idle (R164, R170). -/
def BoundaryTaken (s t : State) : Prop :=
  let l := s.transmitter.unacked
  let clear := ∀ u ∈ l, u.due = false
  (∀ q rest, s.handler.replies = q :: rest →
    t = sendingFrame { s with handler := { s.handler with replies := rest } } q.frame false q.restart) ∧
    (s.handler.replies = [] → s.handler.link = .up →
      (∀ before x after, l = before ++ x :: after → x.due = true → (∀ u ∈ before, u.due = false) →
        (∀ n, x.notice = .event n → (s.source n).capture.isSome) → Resent s t before x after) ∧
      (∀ x rest, clear → l.length < 4 → s.transmitter.pending = x :: rest → FirstSent s t x rest) ∧
      (clear → 4 ≤ l.length ∨ s.transmitter.pending = [] → t = s)) ∧
    (s.handler.replies = [] → s.handler.link ≠ .up → t = s)

end Sys2Proof.Claims

open Sys2Proof Sys2Proof.Machine Sys2Proof.Claims

/-! ## The step, and reset -/

/-- The command at the front of the queue is run on the state with the queue's rest. -/
def Obligations.StepRunsFrontCommand : Prop :=
  ∀ (c : Instr) (rest : List Instr) (s : State),
    step { s with pending := c :: rest } = exec c { s with pending := rest }

/-- The model's choice (assumption log 7): on an empty queue the part takes the oldest report on its way, else a frame
boundary that is due, else a grant that is due, else the oldest accepted frame; each as a command put in the queue, and
nothing else changes. -/
def Sys2Proof.Claims.EmptyQueueTakesWhatWaits : Prop :=
  ∀ s : State, s.pending = [] →
    (∀ r rest, s.handed = r :: rest → step s = .next { s with pending := [r.command] }) ∧
      (s.handed = [] → s.boundaryDue = true → step s = .next { s with pending := [.frameSent] }) ∧
      (s.handed = [] → s.boundaryDue = false → s.grantDue = true → step s = .next { s with pending := [.grant] }) ∧
      (∀ f rest, s.handed = [] → s.boundaryDue = false → s.grantDue = false → s.port.arrivals = f :: rest →
        step s = .next { s with pending := [f.command] })

/-- When a frame boundary is due (R164, R170): LINK_TX is idle, and a reply waits, or with the link UP a due notice or the
head of the pending list with fewer than four unacknowledged. When a grant is due (R114, R116): the engine is IDLE, no job is
ACTIVE, and a bay has an identity read that is a candidate, or is ACTIVE with a job at the head of its queue. -/
def Sys2Proof.Claims.WhatIsDue : Prop :=
  ∀ s : State,
    (s.boundaryDue = true ↔
      s.port.sending = none ∧
        (s.handler.replies ≠ [] ∨
          s.handler.link = .up ∧
            ((∃ u ∈ s.transmitter.unacked, u.due = true) ∨
              s.transmitter.unacked.length < 4 ∧ s.transmitter.pending ≠ []))) ∧
      (s.grantDue = true ↔
        s.engine.state = .idle ∧ (∀ j : SlotNo, (s.slot j).state ≠ .active) ∧
          ∃ b : BayNo, (s.bay b).read = .candidate ∨ (s.bay b).state = .active ∧ s.queue b ≠ [])

/-- The command by which each report is taken, by its row of the table. -/
def Sys2Proof.Claims.ReportsHaveTheirCommands : Prop :=
  ∀ (w : Work) (b : BayNo) (j : SlotNo) (n : SourceNo) (x : Ending) (o i : Nat) (fell earlier : Bool) (l : List Byte)
    (bits : Byte),
    (Report.abortRequest w).command = .abortRequest w ∧ (Report.release b earlier).command = .releaseReport b ∧
      (Report.liveCount b i fell).command = .liveCountReport b ∧
      (Report.timeoutAccounting b x).command = .timeoutAccountingReport b ∧
      (Report.busFault b).command = .busFaultReport b ∧
      (Report.identityEnding b x i l earlier).command = .identityEndingReport b ∧
      (Report.jobEnding j x o i).command = .jobEndingReport j ∧ (Report.raise n bits).command = .eventRaise n

/-- The command by which each accepted frame is taken: by its kind (R187), a BAY-COMMAND by its command byte (R188); a frame of
any other kind, and a BAY-COMMAND of none of the four commands, is UNKNOWN_REQUEST (R155; the second the model's choice,
assumption log 10). -/
def Sys2Proof.Claims.FramesHaveTheirCommands : Prop :=
  ∀ (k q : Byte) (p : List Byte),
    (∀ x ∈
        ([(0x01, .openSession), (0x02, .closeSession), (0x03, .ping), (0x04, .restart), (0x05, .ack), (0x08, .submit),
          (0x09, .cancel), (0x0A, .jobStatus), (0x11, .indicate), (0x12, .bayStatus), (0x13, .bayIdentity),
          (0x14, .clearEvents), (0x18, .setBayConfig), (0x19, .getBayConfig), (0x1A, .setLinkConfig),
          (0x1B, .getLinkConfig), (0x1C, .getCounters)] : List (Byte × (Byte → List Byte → Instr))),
      Frame.command ⟨x.1, q, p⟩ = x.2 q p) ∧
      (∀ b : Byte, ∀ x ∈
          ([(0x01, .powerOn), (0x02, .powerOff), (0x03, .resetModule), (0x04, .clearFault)] :
            List (Byte × (Byte → Byte → Instr))),
        Frame.command ⟨0x10, q, [b, x.1]⟩ = x.2 q b) ∧
      ((∀ b c : Byte, p = [b, c] → c = 0x00 ∨ 0x05 ≤ c.toNat) →
        Frame.command ⟨0x10, q, p⟩ = .unknownRequest 0x10 q p) ∧
      (k ∉ ([0x01, 0x02, 0x03, 0x04, 0x05, 0x08, 0x09, 0x0A, 0x10, 0x11, 0x12, 0x13, 0x14, 0x18, 0x19, 0x1A, 0x1B, 0x1C] :
          List Byte) →
        Frame.command ⟨k, q, p⟩ = .unknownRequest k q p)

/-- The model's choice (assumption log 7): with nothing waiting 10 µs pass. The timers of every record lose one unit, and
nothing else of it changes; the queue takes the command of each timer that had one unit or none left, in the order of
`timersRunning`. -/
def Sys2Proof.Claims.TimePassesWhenNothingWaits : Prop :=
  ∀ s : State, s.pending = [] → s.handed = [] → s.boundaryDue = false → s.grantDue = false → s.port.arrivals = [] →
    ∃ t, step s = .next t ∧
      t.pending = ((timersRunning s).filter fun x => x.1.any (· ≤ 1)).map Prod.snd ∧
      t = { s with
              pending := t.pending, bays := t.bays, engine := t.engine, jobs := t.jobs, port := t.port,
              transmitter := { s.transmitter with ackTimer := s.transmitter.ackTimer.map (· - 1) },
              blink := { s.blink with left := s.blink.left - 1 } } ∧
      (∀ b : BayNo,
        t.bay b =
          { s.bay b with
            powerUpTimer := (s.bay b).powerUpTimer.map (· - 1), settleTimer := (s.bay b).settleTimer.map (· - 1),
            dischargeTimer := (s.bay b).dischargeTimer.map (· - 1), pulseTimer := (s.bay b).pulseTimer.map (· - 1),
            presenceCount := (s.bay b).presenceCount.map (· - 1), latchCount := (s.bay b).latchCount.map (· - 1),
            attnCount := (s.bay b).attnCount.map (· - 1),
            holdOff := (s.bay b).holdOff.map fun h => { h with left := h.left - 1 } }) ∧
      t.engine =
        { s.engine with
          byteTimer := s.engine.byteTimer.map (· - 1), turnTimer := s.engine.turnTimer.map (· - 1),
          heldTimer := s.engine.heldTimer.map (· - 1) } ∧
      (∀ j : SlotNo, t.slot j = { s.slot j with deadline := (s.slot j).deadline.map (· - 1) }) ∧
      t.jobs = { s.jobs with slots := t.jobs.slots } ∧
      t.port =
        { s.port with
          gapTimer := s.port.gapTimer.map (· - 1),
          sending := s.port.sending.map fun f => { f with left := f.left - 1 } }

/-- The step on an empty queue (the model's choice, assumption log 7): the part takes what waits, and where nothing waits
10 µs pass. With it, when a boundary and a grant are due (R114, R116, R164, R170), and the command of each report and of each
accepted frame (R187, R188). -/
def Obligations.EmptyQueueGoesOn : Prop :=
  Claims.EmptyQueueTakesWhatWaits ∧ Claims.TimePassesWhenNothingWaits ∧ Claims.WhatIsDue ∧
    Claims.ReportsHaveTheirCommands ∧ Claims.FramesHaveTheirCommands

/-- What a power-on reset leaves, where the spec gives the value: every bay EMPTY with no work and its indicators AUTO and
dark (R1), BAYn_PEN deasserted and BAYn_MRST_n asserted, the bus idle (R53, R60), every slot FREE and every queue empty
(R90), the last-served bay 7 (R115), the event sets empty but for RESTARTED (R134), the link DOWN with session 0 (R152),
no notice (R167), the defaults of R178 and R179, every counter 0 (R183). -/
def Obligations.ResetLeavesStartingValues : Prop :=
  (∀ b : BayNo,
    let r := State.reset.bay b
    r.state = .empty ∧ r.powerPhase = none ∧ r.resetPhase = none ∧ r.read = .noRead ∧ r.presence = false ∧
      r.pending = none ∧ r.lastResult = none ∧ r.cause = none ∧ r.holdOff = none ∧ r.powerLed = ⟨.auto, .off⟩ ∧
      r.attnLed = ⟨.auto, .off⟩ ∧ r.identity = none ∧ r.timeouts = 0 ∧ r.liveJobs = 0 ∧ r.powerUpTimer = none ∧
      r.settleTimer = none ∧ r.dischargeTimer = none ∧ r.pulseTimer = none ∧ r.pen = false ∧ r.mrst = true ∧
      State.reset.queue b = [] ∧ State.reset.bayCounters b = BayCounters.zero ∧
      State.reset.bayConfig b =
        { powerUp := 20, settle := 20, discharge := 50, byteTimeout := 10, turnaround := 10, faultLimit := 3,
          latchAction := .orderly, attentionAction := .nothing, holdOff := 5, notifyMask := 0xFF }) ∧
    (∀ j : SlotNo, State.reset.slot j = Slot.free) ∧
    (∀ n : SourceNo,
      State.reset.source n =
        { set := if n = deviceSource then RESTARTED else 0, stage := .noNotice, renotify := false,
          capture := none }) ∧
    (let e := State.reset.engine
    e.state = .idle ∧ e.work = none ∧ e.selected = none ∧ e.ending = none ∧ e.abortStep = none ∧ e.bytesOut = 0 ∧
      e.bytesIn = 0 ∧ e.pendingRepeat = none ∧ e.identityBuffer = [] ∧ e.lastUsed = none ∧ e.heldTimer = none ∧
      e.sel = 0 ∧ e.selv = false ∧ e.stb = false ∧ e.rev = false ∧ e.drive = none) ∧
    State.reset.lastServed = 7 ∧ State.reset.reporter.resetCause = .powerOn ∧
    State.reset.handler = { link := .down, session := 0, nonce := none, cache := [], replies := [] } ∧
    State.reset.transmitter = { pending := [], unacked := [], next := 0, retries := 0, ackTimer := none } ∧
    State.reset.config.link = { ackTimeout := 40, retryLimit := 4 } ∧
    State.reset.counters.device = DeviceCounters.zero ∧ State.reset.port.buffer = [] ∧
    State.reset.port.gapTimer = none ∧ State.reset.port.sending = none ∧ State.reset.pending = []

/-- A hardware reset (R1): every block returns to its reset values, the reset cause and the rate in use are those of this
reset, the latch, attention and service levels are taken from the lines, a seated module is counted from then, and a module
line found high puts the engine in HELD (R75). The lines keep their levels, the pool its bytes and the queue its commands
(the model's choice, assumption logs 2, 5, 6); frames accepted and not yet taken, and raises, reports and abort requests
handed and not yet taken, are dropped (the model's choice, assumption log 15). -/
def Obligations.HardwareResetStartsAgain : Prop :=
  ∀ (s : State) (cause : ResetCause) (straps : BitVec 2), ∃ t, exec (.hardwareReset cause straps) s = .next t ∧
    t = { State.reset with
            pending := s.pending, bays := t.bays, engine := t.engine,
            jobs := { State.reset.jobs with pool := s.jobs.pool },
            reporter := { State.reset.reporter with resetCause := cause },
            port := { State.reset.port with rate := straps, straps := straps }, handed := t.handed,
            freeDraws := s.freeDraws } ∧
    (∀ b : BayNo,
      t.bay b =
        { Bay.atReset with
          presenceLine := (s.bay b).presenceLine, latchLine := (s.bay b).latchLine, attnLine := (s.bay b).attnLine,
          pgood := (s.bay b).pgood, pfault := (s.bay b).pfault, latchClosed := (s.bay b).latchLine,
          pressed := (s.bay b).attnLine, service := (s.bay b).service,
          presenceCount := if (s.bay b).presenceLine then some (ms 16) else none }) ∧
    (s.engine.ack = false → s.engine.revack = false →
      t.engine = { Engine.atReset with modByte := s.engine.modByte } ∧ t.handed = []) ∧
    (s.engine.ack = true ∨ s.engine.revack = true →
      t.engine =
          { Engine.atReset with
            ack := s.engine.ack, revack := s.engine.revack, modByte := s.engine.modByte, state := .held,
            heldTimer := some (ms 10) } ∧
        t.handed = [.raise deviceSource BUS_HELD])

/-! ## The sideband inputs of a bay -/

/-- A raw edge on a debounced line (R2): the count of 16 ms starts where the new level differs from the recorded one and is
cancelled where it is the recorded one; a level the line already has is no edge. Nothing else changes. -/
def Obligations.LineEdgeStartsOrCancelsCount : Prop :=
  ∀ (s : State) (b : BayNo) (line : SideLine) (level : Bool),
    ∃ t, exec (.sidebandLineEdge b line level) s = .next t ∧ t = { s with bays := t.bays } ∧ OtherBaysKept b s t ∧
      match line with
      | .presence =>
        (level = (s.bay b).presenceLine → t.bay b = s.bay b) ∧
          (level ≠ (s.bay b).presenceLine →
            t.bay b =
              { s.bay b with
                presenceLine := level,
                presenceCount := if level = (s.bay b).presence then none else some (ms 16) })
      | .latch =>
        (level = (s.bay b).latchLine → t.bay b = s.bay b) ∧
          (level ≠ (s.bay b).latchLine →
            t.bay b =
              { s.bay b with
                latchLine := level, latchCount := if level = (s.bay b).latchClosed then none else some (ms 16) })
      | .attention =>
        (level = (s.bay b).attnLine → t.bay b = s.bay b) ∧
          (level ≠ (s.bay b).attnLine →
            t.bay b =
              { s.bay b with
                attnLine := level, attnCount := if level = (s.bay b).pressed then none else some (ms 16) })

/-- A debounced assertion of presence is taken in EMPTY: PRESENT with PRESENCE raised, power off (R3). -/
def Sys2Proof.Claims.PresenceAssertSeatsModule : Prop :=
  ∀ (s : State) (b : BayNo), (s.bay b).state = .empty → (s.bay b).presence = false → (s.bay b).presenceLine = true →
    (s.bay b).presenceCount.isSome →
    ∃ t, exec (.presenceAssert b) s = .next t ∧
      t = { s with bays := t.bays, handed := s.handed ++ [.raise (baySource b) PRESENCE] } ∧ OtherBaysKept b s t ∧
      SameButLeds (t.bay b)
        { entered (s.bay b) .present with presence := true, presenceCount := none, pen := false, mrst := true }

/-- A debounced loss of presence is taken in every state but EMPTY (R27): EMPTY with power off and the identity cleared, the
work disposed of with BAY-GONE, the pending command FAILED, PRESENCE raised with SURPRISE where BAYn_PEN was asserted. -/
def Sys2Proof.Claims.PresenceLossEmptiesBay : Prop :=
  ∀ (s : State) (b : BayNo), (s.bay b).state ≠ .empty → (s.bay b).presence = true → (s.bay b).presenceLine = false →
    (s.bay b).presenceCount.isSome →
    ∃ t, exec (.presenceLoss b) s = .next t.fillLine ∧
      t = { s.takeWork b .bayGone with
              bays := t.bays,
              handed := (s.takeWork b .bayGone).handed ++
                [.raise (baySource b)
                  (commandBit (s.bay b) ||| PRESENCE ||| if (s.bay b).pen then SURPRISE else 0)] } ∧
      OtherBaysKept b s t ∧
      SameButLeds (t.bay b)
        { entered (s.bay b) .empty with
          presence := false, presenceCount := none, pen := false, mrst := true, identity := none, pending := none,
          lastResult := resultAfter (s.bay b) .failed, read := .noRead, liveJobs := t.liveCount b }

/-- The two debounced changes of presence (R3, R27). -/
def Obligations.PresenceChangesAreTaken : Prop :=
  Claims.PresenceAssertSeatsModule ∧ Claims.PresenceLossEmptiesBay

/-- A debounced change of the latch to CLOSED, or to OPEN in EMPTY, PRESENT, DRAINING, POWERING-DOWN or FAULTED, is recorded
and raises LATCH, with no further effect (R4). -/
def Sys2Proof.Claims.LatchChangeIsRecorded : Prop :=
  ∀ (s : State) (b : BayNo), (s.bay b).latchCount.isSome → (s.bay b).latchLine ≠ (s.bay b).latchClosed →
    ((s.bay b).latchLine = true ∨ (s.bay b).state = .empty ∨ (s.bay b).state = .present ∨
      (s.bay b).state = .draining ∨ (s.bay b).state = .poweringDown ∨ (s.bay b).state = .faulted) →
    ∃ t, exec (.latchChange b) s = .next t ∧
      t = { s with bays := t.bays, handed := s.handed ++ [.raise (baySource b) LATCH] } ∧ OtherBaysKept b s t ∧
      t.bay b = { s.bay b with latchClosed := (s.bay b).latchLine, latchCount := none }

/-- A latch opening in POWERING, IDENTIFYING, ACTIVE or RESETTING with the ORDERLY action drains the bay (R24), and with the
IMMEDIATE action cuts its power and raises UNSAFE-LATCH (R25). A pending command ends SUPERSEDED. -/
def Sys2Proof.Claims.LatchOpeningTakesBayOut : Prop :=
  ∀ (s : State) (b : BayNo), (s.bay b).latchCount.isSome → (s.bay b).latchLine = false →
    (s.bay b).latchClosed = true →
    ((s.bay b).state = .powering ∨ (s.bay b).state = .identifying ∨ (s.bay b).state = .active ∨
      (s.bay b).state = .resetting) →
    ∃ t, exec (.latchChange b) s = .next t.fillLine ∧
      ((s.bayConfig b).latchAction = .orderly →
        GoesOut b s t
          { (s.takeWork b .bayOff).bay b with
            latchClosed := false, latchCount := none, pending := none,
            lastResult := resultAfter (s.bay b) .superseded }
          (commandBit (s.bay b) ||| LATCH)) ∧
      ((s.bayConfig b).latchAction = .immediate →
        let w := s.takeWork b .latchOpen
        let r : Bay :=
          { entered (s.bay b) .poweringDown with
            latchClosed := false, latchCount := none, pending := none,
            lastResult := resultAfter (s.bay b) .superseded, pen := false, mrst := true, read := .noRead,
            liveJobs := t.liveCount b }
        t = { w with
                bays := t.bays,
                handed := w.handed ++
                  [.raise (baySource b) (commandBit (s.bay b) ||| UNSAFE_LATCH ||| LATCH)] } ∧
          OtherBaysKept b s t ∧
          ((s.bay b).pgood = true →
            SameButLeds (t.bay b) { r with dischargeTimer := some (dischargeTime (s.bayConfig b)) }) ∧
          ((s.bay b).pgood = false → SameButLeds (t.bay b) { r with state := .present }))

/-- The debounced changes of the latch (R4, R24, R25). -/
def Obligations.LatchChangesAreTaken : Prop :=
  Claims.LatchChangeIsRecorded ∧ Claims.LatchOpeningTakesBayOut

/-- A press of the attention button (R5, R47): the field, the press counter, ATTENTION, and the hold-off: a running one ends;
else one starts under TOGGLE-POWER, in ACTIVE with target OFF and in PRESENT with the latch CLOSED with target ON. -/
def Sys2Proof.Claims.AttentionPressOffersHoldOff : Prop :=
  ∀ (s : State) (b : BayNo), (s.bay b).attnCount.isSome → (s.bay b).attnLine = true → (s.bay b).pressed = false →
    (s.bay b).LedsLegal →
    ∃ t, exec (.attentionPress b) s = .next t ∧
      t = { s with bays := t.bays, counters := t.counters,
                   handed := s.handed ++ [.raise (baySource b) ATTENTION] } ∧
      OtherBaysKept b s t ∧
      t.counters.device = s.counters.device ∧
      (∀ c : BayNo, c ≠ b → t.bayCounters c = s.bayCounters c) ∧
      t.bayCounters b = { s.bayCounters b with presses := advance (s.bayCounters b).presses } ∧
      SameButLeds (t.bay b)
        { s.bay b with
          pressed := true, attnCount := none,
          holdOff :=
            if (s.bay b).holdOff.isSome then none
            else if (s.bayConfig b).attentionAction = .togglePower ∧ (s.bay b).state = .active then
              some ⟨.off, ms (1000 * (s.bayConfig b).holdOff.toNat)⟩
            else if (s.bayConfig b).attentionAction = .togglePower ∧ (s.bay b).state = .present ∧
                (s.bay b).latchClosed = true then
              some ⟨.on, ms (1000 * (s.bayConfig b).holdOff.toNat)⟩
            else none }

/-- A release of the attention button updates the field and has no other effect (R5). -/
def Sys2Proof.Claims.AttentionReleaseIsRecorded : Prop :=
  ∀ (s : State) (b : BayNo), (s.bay b).attnCount.isSome → (s.bay b).attnLine = false → (s.bay b).pressed = true →
    ∃ t, exec (.attentionRelease b) s = .next t ∧ t = { s with bays := t.bays } ∧ OtherBaysKept b s t ∧
      t.bay b = { s.bay b with pressed := false, attnCount := none }

/-- The debounced changes of the attention button (R5, R47). -/
def Obligations.AttentionChangesAreTaken : Prop :=
  Claims.AttentionPressOffersHoldOff ∧ Claims.AttentionReleaseIsRecorded

/-- BAYn_PGOOD rising starts phase SETTLE in POWERING phase RAMP and has no effect on the bay in any other state (R14). -/
def Sys2Proof.Claims.PowerGoodRiseStartsSettle : Prop :=
  ∀ (s : State) (b : BayNo), (s.bay b).pgood = false →
    ∃ t, exec (.pgoodRise b) s = .next t ∧ t = { s with bays := t.bays } ∧ OtherBaysKept b s t ∧
      ((s.bay b).state = .powering → (s.bay b).powerPhase = some .ramp →
        t.bay b =
          { s.bay b with pgood := true, powerUpTimer := none, powerPhase := some .settle, mrst := false,
                         settleTimer := some (ms (s.bayConfig b).settle.toNat) }) ∧
      ((s.bay b).state ≠ .powering ∨ (s.bay b).powerPhase ≠ some .ramp → t.bay b = { s.bay b with pgood := true })

/-- BAYn_PGOOD falling in POWERING-DOWN (R22): the discharge timer is void, the bay enters PRESENT, a pending POWER-OFF ends
COMPLETED. -/
def Sys2Proof.Claims.PowerGoodFallEndsDischarge : Prop :=
  ∀ (s : State) (b : BayNo), (s.bay b).pgood = true → (s.bay b).state = .poweringDown →
    ∃ t, exec (.pgoodFall b) s = .next t.fillLine ∧
      t = { s with bays := t.bays, handed := raised s.handed (baySource b) (commandBit (s.bay b)) } ∧
      OtherBaysKept b s t ∧
      SameButLeds (t.bay b)
        { entered (s.bay b) .present with pgood := false, pending := none,
                                          lastResult := resultAfter (s.bay b) .completed }

/-- The two power lines (R6, R26). BAYn_PFAULT_n asserted is a loss of power in POWERING, IDENTIFYING, ACTIVE, RESETTING and
DRAINING, BAYn_PGOOD falling in POWERING phase SETTLE and in the last four: the bay enters FAULTED with cause POWER. In the
other states only the line's level changes (but for the fall in POWERING-DOWN, which R22 gives). A deassertion of
BAYn_PFAULT_n changes only the level. -/
def Sys2Proof.Claims.PowerLinesAreTested : Prop :=
  ∀ (s : State) (b : BayNo),
    let r := s.bay b
    let later := r.state = .identifying ∨ r.state = .active ∨ r.state = .resetting ∨ r.state = .draining
    (r.pfault = false →
      ∃ t, exec (.pfaultAssert b) s = .next t.fillLine ∧
        (r.state = .powering ∨ later → FaultEntered .power b (s.setBay b { r with pfault := true }) t) ∧
        (¬(r.state = .powering ∨ later) → t = s.setBay b { r with pfault := true })) ∧
      (r.pgood = true →
        ∃ t, exec (.pgoodFall b) s = .next t.fillLine ∧
          ((r.state = .powering ∧ r.powerPhase = some .settle) ∨ later →
            FaultEntered .power b (s.setBay b { r with pgood := false }) t) ∧
          (r.state = .empty ∨ r.state = .present ∨ r.state = .faulted ∨
              (r.state = .powering ∧ r.powerPhase = some .ramp ∧ r.pfault = false) →
            t = s.setBay b { r with pgood := false })) ∧
      exec (.pfaultDeassert b) s = .next (s.setBay b { r with pfault := false })

/-- The changes of the two power lines (R6, R14, R22, R26). -/
def Obligations.PowerLineChangesAreTaken : Prop :=
  Claims.PowerGoodRiseStartsSettle ∧ Claims.PowerGoodFallEndsDischarge ∧ Claims.PowerLinesAreTested

/-- A change of BAYn_SRQ_n updates the service field in every state; SERVICE is raised when the line becomes asserted in
ACTIVE, and in no other case (R7). -/
def Obligations.ServiceLevelIsRecorded : Prop :=
  ∀ (s : State) (b : BayNo) (level : Bool),
    ∃ t, exec (.srqChange b level) s = .next t ∧ OtherBaysKept b s t ∧ t.bay b = { s.bay b with service := level } ∧
      t = { s with
              bays := t.bays,
              handed :=
                if level = true ∧ (s.bay b).service = false ∧ (s.bay b).state = .active then
                  s.handed ++ [.raise (baySource b) SERVICE]
                else s.handed }

/-! ## The bay timers -/

/-- The power-up expiry is taken in POWERING phase RAMP: FAULTED with cause POWER-UP (R15). -/
def Sys2Proof.Claims.PowerUpExpiryFaultsBay : Prop :=
  ∀ (s : State) (b : BayNo), (s.bay b).state = .powering → (s.bay b).powerPhase = some .ramp →
    (s.bay b).powerUpTimer.isSome →
    ∃ t, exec (.powerUpExpiry b) s = .next t.fillLine ∧ FaultEntered .powerUp b s t

/-- The discharge expiry is taken in POWERING-DOWN: FAULTED with cause DISCHARGE (R23). -/
def Sys2Proof.Claims.DischargeExpiryFaultsBay : Prop :=
  ∀ (s : State) (b : BayNo), (s.bay b).state = .poweringDown → (s.bay b).dischargeTimer.isSome →
    ∃ t, exec (.dischargeExpiry b) s = .next t.fillLine ∧ FaultEntered .discharge b s t

/-- The power-up expiry (R15) and the discharge expiry (R23), each an entry to FAULTED (R12). A notice of a job that the entry
ends starts on an idle LINK_TX in the same step (the model's reading of R164, assumption log 12). -/
def Obligations.PowerTimersFaultBay : Prop :=
  Claims.PowerUpExpiryFaultsBay ∧ Claims.DischargeExpiryFaultsBay

/-- The settle expiry, in POWERING phase SETTLE (R16) and in RESETTING phase SETTLE (R41), takes the bay to IDENTIFYING with
its identity read a candidate (R79). -/
def Obligations.SettleExpiryEntersIdentifying : Prop :=
  ∀ (s : State) (b : BayNo), (s.bay b).settleTimer.isSome →
    let gone := fun t : State =>
      t = { s with bays := t.bays } ∧ OtherBaysKept b s t ∧
        SameButLeds (t.bay b)
          { entered (s.bay b) .identifying with pen := true, mrst := false, read := .candidate }
    ((s.bay b).state = .powering → (s.bay b).powerPhase = some .settle →
      ∃ t, exec (.settleExpiryPowering b) s = .next t ∧ gone t) ∧
      ((s.bay b).state = .resetting → (s.bay b).resetPhase = some .settle →
        ∃ t, exec (.settleExpiryResetting b) s = .next t ∧ gone t)

/-- The reset pulse expiry in RESETTING phase PULSE: BAYn_MRST_n deasserted, phase SETTLE, and the settle timer started with
the bay's settle time as it stands (R40). -/
def Obligations.ResetPulseExpiryStartsSettle : Prop :=
  ∀ (s : State) (b : BayNo), (s.bay b).state = .resetting → (s.bay b).resetPhase = some .pulse →
    (s.bay b).pulseTimer.isSome →
    ∃ t, exec (.resetPulseExpiry b) s = .next t ∧ t = { s with bays := t.bays } ∧ OtherBaysKept b s t ∧
      t.bay b =
        { s.bay b with mrst := false, resetPhase := some .settle, pulseTimer := none,
                       settleTimer := some (ms (s.bayConfig b).settle.toNat) }

/-- The hold-off expiry (R49): target OFF in ACTIVE drains the bay with a POWER-OFF of the button; target ON in PRESENT with
the latch CLOSED powers it up with a POWER-ON of the button; with the latch OPEN only the hold-off ends. -/
def Obligations.HoldOffExpiryActsOnTarget : Prop :=
  ∀ (s : State) (b : BayNo) (h : HoldOff), (s.bay b).holdOff = some h →
    ((s.bay b).state = .active ∧ h.target = .off ∨ (s.bay b).state = .present ∧ h.target = .on) →
    ∃ t u, exec (.holdOffExpiry b) s = .next t.fillLine ∧ u = { s with bays := u.bays } ∧ OtherBaysKept b s u ∧
      SameButLeds (u.bay b) { s.bay b with holdOff := none } ∧
      ((s.bay b).state = .active →
        GoesOut b u t { (u.takeWork b .bayOff).bay b with pending := some ⟨.powerOff, .button⟩ } 0) ∧
      ((s.bay b).state = .present → (s.bay b).latchClosed = true → PoweringEntered .button b u t) ∧
      ((s.bay b).state = .present → (s.bay b).latchClosed = false → t = u)

/-- The common blink cycle turns over every 250 ms, and every blinking indicator follows it (R46). -/
def Obligations.BlinkCycleTurnsOver : Prop :=
  ∀ s : State,
    exec .blinkToggle s = .next { s with blink := { lit := !s.blink.lit, left := ms 250 } } ∧
      ∀ i : Indicator,
        (i.driven = .off → ledLine i s.blink = false) ∧ (i.driven = .on → ledLine i s.blink = true) ∧
          (i.driven = .blink → ledLine i s.blink = s.blink.lit)

/-! ## How a request is taken -/

/-- What settles a request before it is executed (R154 steps 3, 5 and 6, R157): a full reply queue drops the frame and counts
it; with the link DOWN the reply is NO-SESSION; a SEQ that the cache holds is answered with the cached reply and counted as a
duplicate. In each case nothing else changes. -/
def Sys2Proof.Claims.RequestsAreSettledFirst : Prop :=
  ∀ (c : Instr) (f : Frame) (s : State), requestFrame? c = some f → s.handler.link ≠ .stalled →
    let u := s.popArrival f
    ∃ t, exec c s = .next t.fillLine ∧
      (8 ≤ s.handler.replies.length →
        t = { u with counters := { u.counters with
                device := { u.counters.device with dropped := advance u.counters.device.dropped } } }) ∧
      (s.handler.replies.length < 8 → s.handler.link = .down →
        t = { u with handler := { u.handler with
                replies := u.handler.replies ++
                  [⟨⟨if 0x01 ≤ f.kind.toNat ∧ f.kind.toNat ≤ 0x1F then f.kind + 0x80 else 0x80, f.seq, [0x10]⟩,
                    false⟩] } }) ∧
      (s.handler.replies.length < 8 → s.handler.link = .up →
        ∀ pre e post, s.handler.cache = pre ++ e :: post → e.seq = f.seq → (∀ x ∈ pre, x.seq ≠ f.seq) →
          t = { u with
                  handler := { u.handler with replies := u.handler.replies ++ [⟨e.reply, false⟩] },
                  counters := { u.counters with
                    device := { u.counters.device with duplicates := advance u.counters.device.duplicates } } })

/-- The model's choice (assumption log 10): the accepted frame at the head of those that wait leaves where it is the command's
frame; otherwise nothing changes. -/
def Sys2Proof.Claims.FrameLeavesArrivals : Prop :=
  ∀ (s : State) (f : Frame),
    (∀ rest, s.port.arrivals = f :: rest → s.popArrival f = { s with port := { s.port with arrivals := rest } }) ∧
      (s.port.arrivals.head? ≠ some f → s.popArrival f = s)

/-- A request that is settled before it is executed (R154 steps 3, 5 and 6, R157), and how its frame is taken from the accepted
frames (the model's choice, assumption log 10). -/
def Obligations.RequestsSettledBeforeExecution : Prop :=
  Claims.RequestsAreSettledFirst ∧ Claims.FrameLeavesArrivals

/-- The first frame taken while the link is STALLED returns it to UP before anything else is decided, whatever the frame: the
retry count becomes 0 and every unacknowledged entry is due (R154 step 1, R176). -/
def Obligations.FirstFrameEndsStall : Prop :=
  ∀ (c : Instr) (f : Frame) (s : State), arrivingFrame? c = some f → s.handler.link = .stalled →
    exec c s =
      exec c
        { s with
          handler := { s.handler with link := .up },
          transmitter := { s.transmitter with
            unacked := s.transmitter.unacked.map fun u => { u with due := true }, retries := 0 } }

/-- A request whose payload length R190 does not allow is answered BAD-LENGTH, and nothing else changes. -/
def Sys2Proof.Claims.BadLengthChangesNothing : Prop :=
  ∀ (c : Instr) (f : Frame) (s : State), c.wellFormed = true → requestFrame? c = some f →
    lengthAllowed f.kind f.payload.length = false → Executes s f →
    ∃ t, exec c s = .next t.fillLine ∧ AnsweredFrom (s.popArrival f) t f 0x12 []

/-- A bay field outside 0 to 7 is answered BAD-ARGUMENT, and nothing else changes (R31, R44, R182, R191). -/
def Sys2Proof.Claims.BayOutOfRangeChangesNothing : Prop :=
  ∀ (c : Instr) (f : Frame) (s : State) (byte : Byte), 8 ≤ byte.toNat →
    (c ∈ [.powerOn f.seq byte, .powerOff f.seq byte, .resetModule f.seq byte, .clearFault f.seq byte,
          .getBayConfig f.seq [byte]] ∨
      ∃ which value : Byte, c = .indicate f.seq [byte, which, value]) →
    requestFrame? c = some f → Executes s f →
    ∃ t, exec c s = .next t.fillLine ∧ AnsweredFrom (s.popArrival f) t f 0x13 []

/-- A kind that names no request is answered UNKNOWN-REQUEST with kind 80h and the kind received (R155), and a BAY-COMMAND of
none of the four commands BAD-ARGUMENT, or BAD-LENGTH where its payload is not two bytes (R31, R190). Nothing else
changes. -/
def Sys2Proof.Claims.UnknownRequestChangesNothing : Prop :=
  ∀ (k q : Byte) (p : List Byte) (s : State), Executes s ⟨k, q, p⟩ →
    ∃ t, exec (.unknownRequest k q p) s = .next t.fillLine ∧
      let u := s.popArrival ⟨k, q, p⟩
      (k ≠ 0x10 →
        t = { u with handler := { u.handler with
                cache := cachedWith u.handler.cache q ⟨0x80, q, [0x11, k]⟩,
                replies := u.handler.replies ++ [⟨⟨0x80, q, [0x11, k]⟩, false⟩] } }) ∧
        (k = 0x10 → p.length = 2 → AnsweredFrom u t ⟨k, q, p⟩ 0x13 []) ∧
        (k = 0x10 → p.length ≠ 2 → AnsweredFrom u t ⟨k, q, p⟩ 0x12 [])

/-- The requests refused for their length, their bay field or their kind (R31, R155, R190, R191). -/
def Obligations.MalformedRequestsChangeNothing : Prop :=
  Claims.BadLengthChangesNothing ∧ Claims.BayOutOfRangeChangesNothing ∧ Claims.UnknownRequestChangesNothing

/-- PING of 0 to 16 bytes is answered OK with the same bytes, and nothing else changes (R162). -/
def Sys2Proof.Claims.PingReturnsItsBytes : Prop :=
  ∀ (q : Byte) (p : List Byte) (s : State), p.length ≤ 16 → Executes s ⟨0x03, q, p⟩ →
    ∃ t, exec (.ping q p) s = .next t.fillLine ∧ AnsweredFrom (s.popArrival ⟨0x03, q, p⟩) t ⟨0x03, q, p⟩ 0x00 p

/-! ## The requests a bay serves -/

/-- A POWER-ON, POWER-OFF or RESET-MODULE that the table of R31 does not accept is answered with its status, and nothing else
changes. -/
def Obligations.BayCommandLeavesBayAsItIs : Prop :=
  ∀ (command : LongCommand) (q byte st : Byte) (b : BayNo) (s : State) (f : Frame), byte.toNat = b.val →
    requestFrame? (bayRequest command q byte) = some f → Executes s f → unchangedStatus? command (s.bay b) = some st →
    ∃ t, exec (bayRequest command q byte) s = .next t.fillLine ∧ AnsweredFrom (s.popArrival f) t f st []

/-- POWER-ON in PRESENT with the latch CLOSED is ACCEPTED, and the bay enters POWERING (R13, R32). -/
def Sys2Proof.Claims.PowerOnEntersPowering : Prop :=
  ∀ (q byte : Byte) (b : BayNo) (s : State), byte.toNat = b.val →
    let f : Frame := ⟨0x10, q, [byte, 0x01]⟩
    Executes s f → (s.bay b).state = .present → (s.bay b).latchClosed = true →
    ∃ t u, exec (.powerOn q byte) s = .next t.fillLine ∧ PoweringEntered .link b (s.popArrival f) u ∧
      AnsweredFrom u t f 0x01 []

/-- POWER-OFF is ACCEPTED in ACTIVE, which drains the bay (R33); in POWERING, IDENTIFYING and RESETTING, where it supersedes
the pending command (R34, R35); and in DRAINING and POWERING-DOWN with the slot empty, where it is adopted (R36). -/
def Sys2Proof.Claims.PowerOffTakesBayOut : Prop :=
  ∀ (q byte : Byte) (b : BayNo) (s : State), byte.toNat = b.val →
    let f : Frame := ⟨0x10, q, [byte, 0x02]⟩
    let s1 := s.popArrival f
    let off : Option PendingCommand := some ⟨.powerOff, .link⟩
    Executes s f →
      ((s.bay b).state = .active →
        ∃ t u, exec (.powerOff q byte) s = .next t.fillLine ∧
          GoesOut b s1 u { (s1.takeWork b .bayOff).bay b with pending := off } 0 ∧ AnsweredFrom u t f 0x01 []) ∧
        ((s.bay b).state = .powering ∨ (s.bay b).state = .identifying ∨ (s.bay b).state = .resetting →
          ∃ t u, exec (.powerOff q byte) s = .next t.fillLine ∧
            GoesOut b s1 u
              { (s1.takeWork b .bayOff).bay b with
                pending := off, lastResult := resultAfter (s.bay b) .superseded }
              (commandBit (s.bay b)) ∧
            AnsweredFrom u t f 0x01 []) ∧
        ((s.bay b).state = .draining ∨ (s.bay b).state = .poweringDown → (s.bay b).pending = none →
          ∃ t u, exec (.powerOff q byte) s = .next t.fillLine ∧ u = { s1 with bays := u.bays } ∧ OtherBaysKept b s1 u ∧
            u.bay b = { s.bay b with pending := off } ∧ AnsweredFrom u t f 0x01 [])

/-- RESET-MODULE in ACTIVE is ACCEPTED (R38): the work is disposed of with BAY-RESET, and the bay enters RESETTING. -/
def Sys2Proof.Claims.ResetModuleEntersResetting : Prop :=
  ∀ (q byte : Byte) (b : BayNo) (s : State), byte.toNat = b.val →
    let f : Frame := ⟨0x10, q, [byte, 0x03]⟩
    let w := (s.popArrival f).takeWork b .bayReset
    Executes s f → (s.bay b).state = .active →
    ∃ t u, exec (.resetModule q byte) s = .next t.fillLine ∧ u = { w with bays := u.bays } ∧ OtherBaysKept b s u ∧
      Resets (w.bay b) (u.bay b) ∧ AnsweredFrom u t f 0x01 []

/-- The three long commands where they are ACCEPTED (R32 to R36, R38). -/
def Obligations.LongCommandsAreAccepted : Prop :=
  Claims.PowerOnEntersPowering ∧ Claims.PowerOffTakesBayOut ∧ Claims.ResetModuleEntersResetting

/-- CLEAR-FAULT in FAULTED (R43): with BAYn_PGOOD low the bay enters PRESENT and the reply is OK; with it high the reply is
POWER-PRESENT. In EMPTY it is NO-MODULE and in every other state WRONG-STATE (R31). No event is raised. -/
def Obligations.ClearFaultNeedsPowerGone : Prop :=
  ∀ (q byte : Byte) (b : BayNo) (s : State), byte.toNat = b.val →
    let f : Frame := ⟨0x10, q, [byte, 0x04]⟩
    let s1 := s.popArrival f
    Executes s f →
    ∃ t u, exec (.clearFault q byte) s = .next t.fillLine ∧ u = { s1 with bays := u.bays } ∧ OtherBaysKept b s u ∧
      ((s.bay b).state = .faulted → (s.bay b).pgood = false →
        SameButLeds (u.bay b) { entered (s.bay b) .present with pen := false, mrst := true } ∧
          AnsweredFrom u t f 0x00 []) ∧
      ((s.bay b).state = .faulted → (s.bay b).pgood = true → u.bay b = s.bay b ∧ AnsweredFrom u t f 0x24 []) ∧
      ((s.bay b).state = .empty → u.bay b = s.bay b ∧ AnsweredFrom u t f 0x23 []) ∧
      ((s.bay b).state ≠ .faulted → (s.bay b).state ≠ .empty →
        u.bay b = s.bay b ∧ AnsweredFrom u t f 0x20 [])

/-- INDICATE stores the setting of the named indicator in every bay state, and its driven value follows (R44, R45); a which
or value outside its set is refused BAD-ARGUMENT. -/
def Obligations.IndicateStoresSetting : Prop :=
  ∀ (q byte which value : Byte) (b : BayNo) (s : State), byte.toNat = b.val →
    let f : Frame := ⟨0x11, q, [byte, which, value]⟩
    let s1 := s.popArrival f
    Executes s f →
    ∃ t u, exec (.indicate q [byte, which, value]) s = .next t.fillLine ∧ u = { s1 with bays := u.bays } ∧
      OtherBaysKept b s u ∧
      (∀ v : Setting, (value, v) ∈ [(0x00, Setting.off), (0x01, .on), (0x02, .blink), (0x03, .auto)] →
        (which = 0x00 →
          SameButLeds (u.bay b) { s.bay b with powerLed := ⟨v, (s.bay b).powerLed.driven⟩ } ∧
            AnsweredFrom u t f 0x00 []) ∧
          (which = 0x01 →
            SameButLeds (u.bay b) { s.bay b with attnLed := ⟨v, (s.bay b).attnLed.driven⟩ } ∧
              AnsweredFrom u t f 0x00 [])) ∧
      (2 ≤ which.toNat ∨ 4 ≤ value.toNat → u.bay b = s.bay b ∧ AnsweredFrom u t f 0x13 [])

/-- BAY-STATUS and BAY-IDENTITY report the bay record as it stands, in the layouts of R192, and change nothing else; a bay
number outside 0 to 7 is refused BAD-ARGUMENT (R51, R89). -/
def Sys2Proof.Claims.BayReportsChangeNothing : Prop :=
  (∀ (q byte : Byte) (s : State), 8 ≤ byte.toNat →
    (Executes s ⟨0x12, q, [byte]⟩ →
      ∃ t, exec (.bayStatus q [byte]) s = .next t.fillLine ∧
        AnsweredFrom (s.popArrival ⟨0x12, q, [byte]⟩) t ⟨0x12, q, [byte]⟩ 0x13 []) ∧
      (Executes s ⟨0x13, q, [byte]⟩ →
        ∃ t, exec (.bayIdentity q [byte]) s = .next t.fillLine ∧
          AnsweredFrom (s.popArrival ⟨0x13, q, [byte]⟩) t ⟨0x13, q, [byte]⟩ 0x13 [])) ∧
  ∀ (q byte : Byte) (b : BayNo) (s : State), byte.toNat = b.val →
    let r := s.bay b
    (Executes s ⟨0x12, q, [byte]⟩ →
      ∃ t, exec (.bayStatus q [byte]) s = .next t.fillLine ∧
        AnsweredFrom (s.popArrival ⟨0x12, q, [byte]⟩) t ⟨0x12, q, [byte]⟩ 0x00
          ([r.state.code,
            match r.powerPhase, r.resetPhase with
            | some p, _ => p.code
            | none, some p => p.code
            | none, none => 0xFF,
            (if r.presence then 0x01 else 0x00) ||| (if r.latchClosed then 0x02 else 0x00) |||
              (if r.pressed then 0x04 else 0x00) ||| (if r.service then 0x08 else 0x00),
            match r.pending with
            | some c => c.command.code
            | none => 0xFF,
            match r.pending with
            | some c => c.origin.code
            | none => 0xFF] ++
            (match r.lastResult with
            | some l => [l.command.code, l.origin.code, l.result.code]
            | none => [0xFF, 0xFF, 0xFF]) ++
            [match r.cause with
            | some k => k.code
            | none => 0xFF] ++
            (match r.holdOff with
            | some h => h.target.code :: two (remainingMs h.left)
            | none => [0xFF, 0x00, 0x00]) ++
            [r.powerLed.setting.code, r.powerLed.driven.code, r.attnLed.setting.code, r.attnLed.driven.code,
             byteOf r.timeouts, byteOf r.liveJobs])) ∧
      (Executes s ⟨0x13, q, [byte]⟩ →
        ∃ t, exec (.bayIdentity q [byte]) s = .next t.fillLine ∧
          AnsweredFrom (s.popArrival ⟨0x13, q, [byte]⟩) t ⟨0x13, q, [byte]⟩ 0x00
            (match r.identity with
            | none => [r.read.code, 0x00]
            | some d =>
              [r.read.code, 0x01, hi d.moduleClass, lo d.moduleClass, d.revision, hi d.channelMap, lo d.channelMap,
               byteOf d.serial.length] ++ d.serial))

/-- PING, BAY-STATUS and BAY-IDENTITY (R51, R89, R162), in the layouts of R192 with the codes of R188 and the absent markers of
R189. The frame leaves the accepted frames (the model's choice, assumption log 10), and the reply starts on an idle LINK_TX in
the same step (the model's reading of R164, assumption log 12). -/
def Obligations.ReadingRequestsChangeNothing : Prop :=
  Claims.PingReturnsItsBytes ∧ Claims.BayReportsChangeNothing

/-! ## The Module Bus -/

/-- A grant chooses, while the engine is IDLE and no job is ACTIVE, the identity read of the first candidate bay after the
last-served one (R116). The read goes ON-BUS and the identity is cleared (R80), and the engine selects the bay for the fixed
EXCHANGE of channel 15 with an in limit of 32 (R54, R79). Abort requests for this read still on their way are dropped (the
model's choice, assumption log 13), and the ending of the message before is cleared (the model's reading, assumption log 14).
The reports of the bay still on their way are of earlier messages from then on (the model's reading, assumption log 18). -/
def Sys2Proof.Claims.GrantSelectsIdentityRead : Prop :=
  ∀ (s : State) (b : BayNo), s.engine.state = .idle → (∀ j : SlotNo, (s.slot j).state ≠ .active) →
    (s.bay b).read = .candidate →
    (∀ c : BayNo, (s.bay c).read = .candidate → scanPlace s.lastServed b ≤ scanPlace s.lastServed c) →
    ∃ t, exec .grant s = .next t ∧
      t = { s with
              bays := t.bays, lastServed := b, engine := t.engine,
              handed := (s.handed.map (ofEarlier b)).filter fun r => r != .abortRequest (.identity b) } ∧
      OtherBaysKept b s t ∧ t.bay b = { s.bay b with read := .onBus, identity := none } ∧
      t.engine =
        granted (s.bayConfig b) s.engine (.identity b) b
          { channel := 0x0F, exchange := true, compress := false, outData := [], inLimit := 32 } []

/-- With no identity read a candidate, a grant chooses the head of the queue of the first ACTIVE bay after the last-served one
(R114, R116). The job becomes ACTIVE and leaves its queue, its deadline void, unmarked and no orphan (R118), and the engine
selects its bay with the job's message (R54, R60). As for a read, abort requests for the job still on their way are dropped and
the ending of the message before is cleared (the model's choices, assumption logs 13, 14). -/
def Sys2Proof.Claims.GrantSelectsHeadJob : Prop :=
  ∀ (s : State) (b : BayNo) (j : SlotNo) (rest : List SlotNo), s.engine.state = .idle →
    (∀ i : SlotNo, (s.slot i).state ≠ .active) → (∀ c : BayNo, (s.bay c).read ≠ .candidate) →
    (s.bay b).state = .active → s.queue b = j :: rest → (s.queue b).Nodup → (s.slot j).bay = b →
    (∀ c : BayNo, (s.bay c).state = .active → s.queue c ≠ [] →
      scanPlace s.lastServed b ≤ scanPlace s.lastServed c) →
    ∃ t, exec .grant s = .next t ∧
      t = { s with
              jobs := t.jobs, lastServed := b, engine := t.engine,
              handed := s.handed.filter fun r => r != .abortRequest (.job j) } ∧
      t.jobs.pool = s.jobs.pool ∧ t.queue b = rest ∧ (∀ c : BayNo, c ≠ b → t.queue c = s.queue c) ∧
      (∀ i : SlotNo, i ≠ j → t.slot i = s.slot i) ∧
      t.slot j = { s.slot j with state := .active, deadline := none, mark := none, orphan := false } ∧
      t.engine =
        granted (s.bayConfig b) s.engine (.job j) b
          { channel := (s.slot j).channel, exchange := decide ((s.slot j).kind = .exchange),
            compress := (s.slot j).compress,
            outData := poolLoad s.jobs.pool (s.slot j).blocks 0 (s.slot j).outLength,
            inLimit := (s.slot j).inLimit.getD 0 }
          s.engine.identityBuffer

/-- The grant of an identity read and of a host job (R54, R80, R114, R116, R118); assumption logs 13, 14 and 18 for the abort
requests it drops, the ending it clears and the reports of earlier messages. -/
def Obligations.GrantSelectsNextWork : Prop :=
  Claims.GrantSelectsIdentityRead ∧ Claims.GrantSelectsHeadJob

/-- A forward byte in hand (R55): MB_ACK rising drops MB_STB, and MB_ACK falling raises MB_STB for a byte that waited for it.
Nothing else changes. -/
def Sys2Proof.Claims.ForwardByteCrossesInFourEdges : Prop :=
  ∀ (s : State) (lines : BusByte),
    (s.engine.state = .forward ∨ s.engine.state = .aborting) → s.engine.abortStep ≠ some .waitLines →
    (s.engine.ack = false → s.engine.handshake = .strobed →
      exec (.mbAckRise lines) s =
        .next { s with engine := { s.engine with ack := true, modByte := lines, stb := false,
                                                 handshake := .acked } }) ∧
      (s.engine.ack = true → s.engine.handshake = .due →
        exec .mbAckFall s =
          .next { s with engine := { s.engine with ack := false, stb := true, handshake := .strobed } })

/-- The last edge of a forward byte in FORWARD (R61, R62): the next byte is due; a data byte adds its weight to bytes out; the
END of a WRITE ends the message DONE and releases the bus; the END of an EXCHANGE turns the bus round, and MB_REVACK already
high takes it to REVERSE. -/
def Sys2Proof.Claims.ForwardByteCompletes : Prop :=
  ∀ (s : State) (b : BayNo), s.engine.state = .forward → s.engine.selected = some b → s.engine.work ≠ none →
    s.engine.ack = true → s.engine.handshake = .acked → s.engine.abortStep = none →
    ∃ t, exec .mbAckFall s = .next t ∧
      let c := s.bayConfig b
      let e : Engine := { s.engine with ack := false }
      (e.item = some .channel → t = { s with engine := pieceDue c e }) ∧
        (∀ n, e.item = some (.repeatCount n) →
          t = { s with
                  engine := byteDue c e (.data n) ⟨false, e.message.outData.getD e.position 0⟩ }) ∧
        (∀ n, e.item = some (.data n) →
          t = { s with
                  engine := pieceDue c { e with position := e.position + n, bytesOut := e.bytesOut + n } }) ∧
        (e.item = some .endMark → e.message.exchange = false → MessageEnds .done b s t e) ∧
        (e.item = some .endMark → e.message.exchange = true →
          let turning : Engine :=
            { e with state := .turning, drive := none, item := none, handshake := .none, stb := false, rev := true,
                     byteTimer := none, turnTimer := some (10 * c.turnaround.toNat) }
          t = { s with engine := if e.revack then reverseEntered c turning else turning })

/-- The four edges of a forward byte, and what follows it (R55, R61, R62). -/
def Obligations.ForwardBytesCross : Prop :=
  Claims.ForwardByteCrossesInFourEdges ∧ Claims.ForwardByteCompletes

/-- The forward coder (R65): after the last byte END; plain bytes without compression; with it, a run of three or more equal
bytes goes as REPEAT and one data byte, at most 128 at a time, and a shorter run byte by byte. -/
def Obligations.ForwardCoderCutsRuns : Prop :=
  ∀ (e : Engine) (n : Nat) (v : Byte) (rest : List Byte),
    (e.message.outData.length ≤ e.position → e.nextPiece = .endMark) ∧
      (e.message.outData.drop e.position = List.replicate n v ++ rest → 0 < n → rest.head? ≠ some v →
        (e.message.compress = false ∨ n < 3 → e.nextPiece = .data 1) ∧
          (e.message.compress = true → 3 ≤ n → e.nextPiece = .repeatCount (min n 128)))

/-- MB_REVACK rising in TURNING takes the bus to REVERSE with the first offer wait (R62); MB_ACK found high with it is the
first offer (R56). -/
def Sys2Proof.Claims.RevackRiseTurnsBusRound : Prop :=
  ∀ (s : State) (b : BayNo) (lines : BusByte), s.engine.state = .turning → s.engine.selected = some b →
    s.engine.work ≠ none → s.engine.ending = none → s.engine.bytesIn ≤ s.engine.message.inLimit →
    s.engine.revack = false →
    ∃ t, exec (.mbRevackRise lines) s = .next t ∧
      let e := reverseEntered (s.bayConfig b) { s.engine with revack := true, modByte := lines }
      (s.engine.ack = false → t = { s with engine := e }) ∧
        (s.engine.ack = true → OfferExamined b (s.bayConfig b) s t e)

/-- MB_ACK rising in the offer wait of REVERSE is an offer (R56): data that fits is stored, data that does not ends OVERRUN
(R66, R67), END completes the phase DONE (R63), REPEAT is taken (R66), any other command byte ends PROTOCOL (R59). -/
def Sys2Proof.Claims.OfferIsTakenOrRefused : Prop :=
  ∀ (s : State) (b : BayNo) (lines : BusByte), s.engine.state = .reverse → s.engine.handshake = .offer →
    s.engine.selected = some b → s.engine.work ≠ none → s.engine.ending = none →
    s.engine.bytesIn ≤ s.engine.message.inLimit → s.engine.ack = false →
    ∃ t, exec (.mbAckRise lines) s = .next t ∧
      OfferExamined b (s.bayConfig b) s t { s.engine with ack := true, modByte := lines }

/-- The first offer and every later one (R56, R59, R62, R63, R66, R67). -/
def Obligations.OffersAreExamined : Prop :=
  Claims.RevackRiseTurnsBusRound ∧ Claims.OfferIsTakenOrRefused

/-- MB_ACK falling after a reverse byte was taken drops MB_STB and starts the next offer wait (R56, R57); after the module's
END it takes the engine to TURNING-BACK (R63, R64). -/
def Sys2Proof.Claims.ReverseByteCompletes : Prop :=
  ∀ (s : State) (b : BayNo), s.engine.state = .reverse → s.engine.selected = some b → s.engine.work ≠ none →
    s.engine.abortStep = none → s.engine.ack = true →
    ∃ t, exec .mbAckFall s = .next t ∧
      let c := s.bayConfig b
      (s.engine.handshake = .taken →
        t = { s with engine := { s.engine with ack := false, stb := false, handshake := .offer,
                                               byteTimer := some c.byteTimeout.toNat } }) ∧
        (s.engine.handshake = .takenEnd →
          Closes .done b c s t { s.engine with ack := false } .turningBack none)

/-- MB_REVACK falling in REVERSE before the module's END ends the phase PROTOCOL (R59, R69). With a byte taken, MB_STB is dropped
on the way to WAIT-LINES (the model's reading, assumption log 14). -/
def Sys2Proof.Claims.RevackFallEndsReverse : Prop :=
  ∀ (s : State) (b : BayNo), s.engine.state = .reverse → s.engine.selected = some b → s.engine.work ≠ none →
    s.engine.revack = true → s.engine.handshake ≠ .takenEnd →
    ∃ t, exec .mbRevackFall s = .next t ∧
      Refused .protocol b (s.bayConfig b) s t { s.engine with revack := false }

/-- In TURNING-BACK, and in ABORTING with abort step WAIT-LINES, the bus is released when both module lines are low; the fall
of one with the other high only moves the line (R64, R72). -/
def Sys2Proof.Claims.ClosingEndsWhenLinesAreLow : Prop :=
  ∀ (s : State) (b : BayNo) (x : Ending), s.engine.selected = some b → s.engine.work ≠ none →
    (s.engine.state = .turningBack ∧ x = .done ∨
      s.engine.state = .aborting ∧ s.engine.abortStep = some .waitLines ∧ x = .aborted) →
    (s.engine.ack = true →
      ∃ t, exec .mbAckFall s = .next t ∧
        (s.engine.revack = false → MessageEnds x b s t { s.engine with ack := false }) ∧
        (s.engine.revack = true → t = { s with engine := { s.engine with ack := false } })) ∧
      (s.engine.revack = true →
        ∃ t, exec .mbRevackFall s = .next t ∧
          (s.engine.ack = false → MessageEnds x b s t { s.engine with revack := false }) ∧
          (s.engine.ack = true → t = { s with engine := { s.engine with revack := false } }))

/-- The last edge of a reverse byte, and the ways out of the reverse phase (R56, R59, R63, R64, R69, R72). That a PROTOCOL ending
drops MB_STB is the model's reading (assumption log 14). -/
def Obligations.ReversePhaseCloses : Prop :=
  Claims.ReverseByteCompletes ∧ Claims.RevackFallEndsReverse ∧ Claims.ClosingEndsWhenLinesAreLow

/-- A timer of the bus that expires (R63, R64, R68, R71, R72). In FORWARD, in REVERSE before the module's END and in TURNING
the message ends by timeout at once. In the closing states the wait ends. In a forward abort the byte in progress is given
up, or the ABORT byte is. An ABORT byte that is due while MB_ACK is high stands on MB_D and MB_CMD at once (the model's reading,
assumption log 9). -/
def Obligations.BusTimersExpire : Prop :=
  ∀ (s : State) (b : BayNo), s.engine.selected = some b → s.engine.work ≠ none →
    let e := s.engine
    let c := s.bayConfig b
    (e.byteTimer.isSome →
      ∃ t, exec .byteTimerExpiry s = .next t ∧
        (e.state = .forward → MessageEnds .byteTimeout b s t e) ∧
        (e.state = .reverse → e.handshake ≠ .takenEnd → MessageEnds .byteTimeout b s t e) ∧
        (e.state = .reverse → e.handshake = .takenEnd → e.abortStep = none → Closes .done b c s t e .turningBack none) ∧
        (e.state = .aborting → e.abortStep = some .finishByte →
          t = { s with engine := byteDue c { e with abortStep := some .sendAbort } .abort ⟨true, 0x11⟩ }) ∧
        (e.state = .aborting → e.abortStep = some .sendAbort → MessageEnds .aborted b s t e)) ∧
      (e.turnTimer.isSome →
        ∃ t, exec .turnaroundTimerExpiry s = .next t ∧
          (e.state = .turning → MessageEnds .turnTimeout b s t e) ∧
          (e.state = .turningBack → MessageEnds .done b s t e) ∧
          (e.state = .aborting → MessageEnds .aborted b s t e))

/-- Line watch (R75, R77): a module line rising in IDLE puts the engine in HELD with the held timer at 10 ms and raises
BUS-HELD; in HELD a rise only moves its line, the fall of the last high line returns it to IDLE and raises BUS-RELEASED, and
the fall of one line with the other high only moves the line. -/
def Sys2Proof.Claims.LineWatchHoldsBus : Prop :=
  ∀ (s : State) (lines : BusByte),
    (s.engine.state = .idle → s.engine.ack = false →
      exec (.mbAckRise lines) s =
        .next { s with
                  engine := { s.engine with ack := true, modByte := lines, state := .held, heldTimer := some (ms 10) },
                  handed := s.handed ++ [.raise deviceSource BUS_HELD] }) ∧
      (s.engine.state = .idle → s.engine.revack = false →
        exec (.mbRevackRise lines) s =
          .next { s with
                    engine := { s.engine with revack := true, modByte := lines, state := .held,
                                              heldTimer := some (ms 10) },
                    handed := s.handed ++ [.raise deviceSource BUS_HELD] }) ∧
      (s.engine.state = .held → s.engine.ack = false →
        exec (.mbAckRise lines) s = .next { s with engine := { s.engine with ack := true, modByte := lines } }) ∧
      (s.engine.state = .held → s.engine.revack = false →
        exec (.mbRevackRise lines) s = .next { s with engine := { s.engine with revack := true, modByte := lines } }) ∧
      (s.engine.state = .held → s.engine.ack = true →
        exec .mbAckFall s =
          .next
            (if s.engine.revack then { s with engine := { s.engine with ack := false } }
            else
              { s with engine := { s.engine with ack := false, state := .idle, heldTimer := none },
                       handed := s.handed ++ [.raise deviceSource BUS_RELEASED] })) ∧
      (s.engine.state = .held → s.engine.revack = true →
        exec .mbRevackFall s =
          .next
            (if s.engine.ack then { s with engine := { s.engine with revack := false } }
            else
              { s with engine := { s.engine with revack := false, state := .idle, heldTimer := none },
                       handed := s.handed ++ [.raise deviceSource BUS_RELEASED] }))

/-- The held timer expiry blames the last-used bay once, by a BUS fault report, and is not started again (R76). -/
def Sys2Proof.Claims.HeldExpiryBlamesOnce : Prop :=
  ∀ s : State, s.engine.heldTimer.isSome →
    exec .heldTimerExpiry s =
      .next { s with
                engine := { s.engine with heldTimer := none },
                handed :=
                  match s.engine.lastUsed with
                  | some b => s.handed ++ [.busFault b]
                  | none => s.handed }

/-- Edges that only move their line: MB_REVACK either way in the forward direction (R55) and after the module's END (R59, R63),
MB_ACK either way in TURNING (R62), and a rise of either line in TURNING-BACK and in WAIT-LINES (R64, R72). -/
def Sys2Proof.Claims.OtherEdgesOnlyMoveLines : Prop :=
  ∀ (s : State) (lines : BusByte),
    let e := s.engine
    let moved := fun (c : Instr) (e' : Engine) => exec c s = .next { s with engine := e' }
    let forward := e.state = .forward ∨ e.state = .aborting ∧ e.abortStep ≠ some .waitLines
    let ended := e.state = .reverse ∧ e.handshake = .takenEnd
    let closing :=
      e.state = .turningBack ∨ e.state = .aborting ∧ e.abortStep = some .waitLines ∧ e.handshake = .none
    (e.revack = false → forward ∨ ended ∨ closing →
      moved (.mbRevackRise lines) { e with revack := true, modByte := lines }) ∧
      (e.revack = true → forward ∨ ended → moved .mbRevackFall { e with revack := false }) ∧
      (e.ack = false → e.state = .turning ∨ closing →
        moved (.mbAckRise lines) { e with ack := true, modByte := lines }) ∧
      (e.ack = true → e.state = .turning → moved .mbAckFall { e with ack := false })

/-- Line watch and the held timer (R75 to R77), and the edges that only move their line (R55, R59, R62 to R64, R72). -/
def Obligations.HeldBusIsWatched : Prop :=
  Claims.LineWatchHoldsBus ∧ Claims.HeldExpiryBlamesOnce ∧ Claims.OtherEdgesOnlyMoveLines

/-- An abort request (R70): for work that is not the engine's it has no effect; else it acts by the engine state. One such
request on its way is taken with it (the model's choice, assumption log 11). An ABORT byte that is due while MB_ACK is high stands
on MB_D and MB_CMD at once (the model's reading, assumption log 9). -/
def Sys2Proof.Claims.AbortRequestActsByState : Prop :=
  ∀ (s : State) (w : Work),
    let u : State := { s with handed := s.handed.erase (.abortRequest w) }
    let e := s.engine
    ∃ t, exec (.abortRequest w) s = .next t ∧
      (e.work ≠ some w → t = u) ∧
      (∀ b : BayNo, e.work = some w → e.selected = some b →
        (e.state = .forward → e.handshake ≠ .due →
          t = { u with engine := { e with state := .aborting, abortStep := some .finishByte } }) ∧
        (e.state = .forward → e.handshake = .due →
          t = { u with
                  engine :=
                    byteDue (s.bayConfig b) { e with state := .aborting, abortStep := some .sendAbort } .abort
                      ⟨true, 0x11⟩ }) ∧
        (e.state = .turning ∨ e.state = .reverse →
          Closes .aborted b (s.bayConfig b) u t e .aborting (some .waitLines)) ∧
        (e.state = .turningBack ∨ e.state = .aborting → t = u))

/-- The end of a byte in a forward abort (R71): in step FINISH-BYTE the ABORT byte follows, a data byte counted; in step
SEND-ABORT the message ends ABORTED. -/
def Sys2Proof.Claims.ForwardAbortSendsAbort : Prop :=
  ∀ (s : State) (b : BayNo), s.engine.state = .aborting → s.engine.selected = some b → s.engine.work ≠ none →
    s.engine.ack = true → s.engine.handshake = .acked →
    ∃ t, exec .mbAckFall s = .next t ∧
      let c := s.bayConfig b
      let e : Engine := { s.engine with ack := false }
      (e.abortStep = some .finishByte → (∀ n, e.item ≠ some (.data n)) →
        t = { s with engine := byteDue c { e with abortStep := some .sendAbort } .abort ⟨true, 0x11⟩ }) ∧
        (∀ n, e.abortStep = some .finishByte → e.item = some (.data n) →
          t = { s with
                  engine :=
                    byteDue c
                      { e with position := e.position + n, bytesOut := e.bytesOut + n,
                               abortStep := some .sendAbort }
                      .abort ⟨true, 0x11⟩ }) ∧
        (e.abortStep = some .sendAbort → e.item = some .abort → MessageEnds .aborted b s t e)

/-- An abandon request (R73): for work that is not the engine's it has no effect; else the bus is released at once, the ending
ABORTED where an abort was in progress and ABANDONED otherwise, unless one was fixed before. -/
def Sys2Proof.Claims.AbandonReleasesAtOnce : Prop :=
  ∀ (s : State) (w : Work), ∃ t, exec (.abandonRequest w) s = .next t ∧ Abandoned w s t

/-- Abort requests, the forward abort and abandon requests (R70, R71, R73); assumption log 11 for the requests, log 9 for an ABORT
byte that waits for MB_ACK. -/
def Obligations.AbortsAndAbandonsAreTaken : Prop :=
  Claims.AbortRequestActsByState ∧ Claims.ForwardAbortSendsAbort ∧ Claims.AbandonReleasesAtOnce

/-! ## Reports taken by their receivers -/

/-- The release report of a bay (R20, R39, R74, R86): a read in stage LEAVING is gone, and the bay's wait for the bus is tested
again. A live count report (R91) gives the bay its live job count, and where the count has fallen the wait is tested again. The
report taken is the oldest of its kind (the model's choice, assumption log 3). A release report of a message before the bay's
present read leaves the read as it is (R87, R133; how the report is told apart is the model's reading, assumption log 18). -/
def Obligations.BusWaitIsTestedAgain : Prop :=
  ∀ (s : State) (b : BayNo) (pre post : List Report), (s.bay b).LedsLegal →
    (∀ earlier : Bool, s.handed = pre ++ .release b earlier :: post → (∀ x, .release b x ∉ pre) →
      ∃ t, exec (.releaseReport b) s = .next t ∧
        WaitTested b { s with handed := pre ++ post } t
          { s.bay b with
            read := if (s.bay b).read = .leaving ∧ earlier = false then .noRead else (s.bay b).read }) ∧
      (∀ (n : Nat) (fell : Bool), s.handed = pre ++ .liveCount b n fell :: post →
        (∀ m f, .liveCount b m f ∉ pre) →
        ∃ t, exec (.liveCountReport b) s = .next t ∧
          (fell = true → WaitTested b { s with handed := pre ++ post } t { s.bay b with liveJobs := n }) ∧
          (fell = false →
            t = { s with handed := pre ++ post, bays := t.bays } ∧ OtherBaysKept b s t ∧
              t.bay b = { s.bay b with liveJobs := n }))

/-- A timeout accounting report (R78): DONE sets the count to 0, a timeout raises it by 1, stopping at 15, any other ending
leaves it. A raised count at or above the bay's limit is a BUS fault report too. A BUS fault report (R28) changes nothing in
EMPTY and FAULTED, and faults the bay with cause BUS in every other state. -/
def Obligations.TimeoutsAreCountedAndFaultBay : Prop :=
  ∀ (s : State) (b : BayNo) (pre post : List Report),
    let spared := fun u : State => (u.bay b).state = .empty ∨ (u.bay b).state = .faulted
    (∀ x : Ending, s.handed = pre ++ .timeoutAccounting b x :: post → (∀ y, .timeoutAccounting b y ∉ pre) →
      ∃ t u, exec (.timeoutAccountingReport b) s = .next t.fillLine ∧ u = { s with handed := pre ++ post, bays := u.bays } ∧
        OtherBaysKept b s u ∧
        (x = .done → u.bay b = { s.bay b with timeouts := 0 } ∧ t = u) ∧
        (x ≠ .done → x ≠ .byteTimeout → x ≠ .turnTimeout → u.bay b = s.bay b ∧ t = u) ∧
        (x = .byteTimeout ∨ x = .turnTimeout →
          let n := min ((s.bay b).timeouts + 1) 15
          u.bay b = { s.bay b with timeouts := n } ∧
            (n < (s.bayConfig b).faultLimit.toNat ∨ spared s → t = u) ∧
            ((s.bayConfig b).faultLimit.toNat ≤ n → ¬spared s → FaultEntered .bus b u t))) ∧
      (s.handed = pre ++ .busFault b :: post → .busFault b ∉ pre →
        ∃ t, exec (.busFaultReport b) s = .next t.fillLine ∧ (spared s → t = { s with handed := pre ++ post }) ∧
          (¬spared s → FaultEntered .bus b { s with handed := pre ++ post } t))

/-- An identity read's ending report (R83). In IDENTIFYING with stage ON-BUS: a valid record takes the bay to ACTIVE, stores the
identity, ends the pending command COMPLETED and raises SERVICE where BAYn_SRQ_n is asserted (R7, R17, R85); any other
outcome faults the bay with cause IDENTITY (R18). In any other state or stage the bay record stays. An ending by timeout
advances the bay's timeouts counter (R183). An ending of a read before the present one changes nothing in the bay record (the
model's reading of R133, assumption log 16), and the report carries the bytes read (the model's choice, assumption log 3). -/
def Obligations.IdentityOutcomeIsTaken : Prop :=
  ∀ (s : State) (b : BayNo) (pre post : List Report) (x : Ending) (n : Nat) (buffer : List Byte)
    (earlier : Bool),
    s.handed = pre ++ .identityEnding b x n buffer earlier :: post →
    (∀ y m l z, .identityEnding b y m l z ∉ pre) →
    ∃ t, exec (.identityEndingReport b) s = .next t.fillLine ∧
      let u := timeoutCounted { s with handed := pre ++ post } b x
      let waits := (s.bay b).state = .identifying ∧ (s.bay b).read = .onBus ∧ earlier = false
      (∀ d, waits → x = .done → identityOf? n buffer = some d →
        t = { u with
                bays := t.bays,
                handed := raised u.handed (baySource b)
                  (commandBit (s.bay b) ||| if (s.bay b).service then SERVICE else 0) } ∧
          OtherBaysKept b s t ∧
          SameButLeds (t.bay b)
            { entered (s.bay b) .active with
              read := .noRead, identity := some d, pending := none,
              lastResult := resultAfter (s.bay b) .completed }) ∧
        (waits → x ≠ .done ∨ identityOf? n buffer = none →
          FaultEntered .identity b (u.setBay b { s.bay b with read := .noRead }) t) ∧
        (¬waits → t = u)

/-- The checks of an identity record (R82, R84, R85): a record of 8 to 24 bytes as R82 lays it out, with its check byte, is
read as its parts; a count below 8, a serial length above 16, a length that disagrees, a format other than 01h, map bit 15,
an empty map or a wrong sum fails. -/
def Obligations.IdentityRecordIsChecked : Prop :=
  (∀ (d : Identity) (check : Byte) (rest : List Byte), d.serial.length ≤ 16 → d.channelMap.getLsbD 15 = false →
    d.channelMap ≠ 0 →
    let record := [0x01, hi d.moduleClass, lo d.moduleClass, d.revision, hi d.channelMap, lo d.channelMap,
      byteOf d.serial.length] ++ d.serial ++ [check]
    record.foldl (· + ·) (0 : Byte) = 0 → identityOf? (8 + d.serial.length) (record ++ rest) = some d) ∧
    ∀ (n : Nat) (l : List Byte),
      (n < 8 ∨ 16 < (l.getD 6 0).toNat ∨ n ≠ 8 + (l.getD 6 0).toNat ∨ l.getD 0 0 ≠ 0x01 ∨
        (word (l.getD 4 0) (l.getD 5 0)).getLsbD 15 = true ∨ word (l.getD 4 0) (l.getD 5 0) = 0 ∨
        (l.take (8 + (l.getD 6 0).toNat)).foldl (· + ·) (0 : Byte) ≠ 0) → identityOf? n l = none

/-- A host job's ending report (R122): the final status by the ending and the abort mark, the counts of the report, and the
bay's timeouts counter for a timeout. A job that is not ACTIVE is left as it is. Where an ABORTED or ABANDONED ending meets no
mark, which R122 answers does not happen, the status is a free value and the job ends all the same (the model's choice,
assumption log 5). -/
def Sys2Proof.Claims.JobEndingGivesFinalStatus : Prop :=
  ∀ (s : State) (j : SlotNo) (pre post : List Report) (x : Ending) (bytesOut bytesIn : Nat),
    s.handed = pre ++ .jobEnding j x bytesOut bytesIn :: post → (∀ y o n, .jobEnding j y o n ∉ pre) →
    ∃ t, exec (.jobEndingReport j) s = .next t.fillLine ∧
      let k := s.slot j
      let u : State := { s with handed := pre ++ post }
      let v := timeoutCounted u k.bay x
      (k.state ≠ .active → t = u) ∧
        (k.state = .active → x = .done → JobEnds j .done bytesOut bytesIn v t) ∧
        (k.state = .active → x = .byteTimeout → JobEnds j .byteTimeout bytesOut bytesIn v t) ∧
        (k.state = .active → x = .turnTimeout → JobEnds j .turnTimeout bytesOut bytesIn v t) ∧
        (k.state = .active → x = .protocol → JobEnds j .protocol bytesOut bytesIn v t) ∧
        (k.state = .active → x = .overrun → JobEnds j .overrun bytesOut bytesIn v t) ∧
        (∀ m, k.state = .active → x = .aborted ∨ x = .abandoned → k.mark = some m →
          JobEnds j (markStatus m) bytesOut bytesIn v t) ∧
        (k.state = .active → x = .aborted ∨ x = .abandoned → k.mark = none →
          ∃ st, JobEnds j st bytesOut bytesIn { v with freeDraws := s.freeDraws + 1 } t)

/-- A raise taken by the Event Reporter (R135, R138, R139). -/
def Obligations.RaiseIsRecorded : Prop :=
  ∀ (s : State) (n : SourceNo) (bits : Byte) (pre post : List Report), s.handed = pre ++ .raise n bits :: post →
    (∀ x, .raise n x ∉ pre) →
    ∃ t, exec (.eventRaise n) s = .next t.fillLine ∧ Recorded { s with handed := pre ++ post } t n bits

/-! ## The Job Table -/

/-- What a bay instruction does (R11, R103), in a table that keeps the laws of R91, R96, R102: the bay's WAITING jobs end
with the instruction's status and its queue is empty; its ACTIVE job takes the instruction's mark unless it carries one (a
BAY-OFF leaves it); no other slot, queue or bay record changes; the notices of the ended jobs join the pending list from the
head of the queue to the tail; the bay record takes the live count. -/
def Sys2Proof.Claims.BayInstructionDisposesOfJobs : Prop :=
  ∀ (s : State) (b : BayNo) (i : BayInstruction), s.JobsLegal → s.OneActive →
    let t := s.instruct b i
    t.queue b = [] ∧ (∀ c : BayNo, c ≠ b → t.queue c = s.queue c ∧ t.bay c = s.bay c) ∧
      t.bay b = { s.bay b with liveJobs := t.liveCount b } ∧
      (∀ j : SlotNo, (s.slot j).state = .waiting → (s.slot j).bay = b →
        t.slot j =
          { s.slot j with
            state := .donePending, deadline := none, final := some i.status, bytesOut := 0, bytesIn := 0,
            blocks := if (s.slot j).kind = .write then [] else (s.slot j).blocks }) ∧
      (∀ j : SlotNo, (s.slot j).state = .active → (s.slot j).bay = b →
        t.slot j = { s.slot j with mark := if (s.slot j).mark.isSome then (s.slot j).mark else i.mark }) ∧
      (∀ j : SlotNo, (s.slot j).bay ≠ b ∨ ((s.slot j).state ≠ .waiting ∧ (s.slot j).state ≠ .active) →
        t.slot j = s.slot j) ∧
      t.transmitter = { s.transmitter with pending := s.transmitter.pending ++ (s.queue b).map .jobDone } ∧
      t.jobs.pool = s.jobs.pool

/-- What else a bay instruction does (R11, R91, R103, R183): each WAITING job it ends advances the bay's counter of jobs ended;
BAY-RESET hands an abort request for an ACTIVE job of the bay that carries no mark; LATCH-OPEN, BAY-FAULT and BAY-GONE abandon
an ACTIVE job of the bay that is on the bus (R73). The live counts of the bay on their way are overtaken by the one it takes
here (the model's choice, assumption log 3). Nothing else changes. -/
def Sys2Proof.Claims.BayInstructionReachesBus : Prop :=
  ∀ (s : State) (b : BayNo) (i : BayInstruction), s.JobsLegal → s.OneActive →
    let t := s.instruct b i
    let e := s.engine
    let kept := s.handed.filter fun r => !r.isLiveCountOf b
    t = { s with
            bays := t.bays, jobs := t.jobs, transmitter := t.transmitter, counters := t.counters, engine := t.engine,
            handed := t.handed } ∧
      t.counters.device = s.counters.device ∧ (∀ c : BayNo, c ≠ b → t.bayCounters c = s.bayCounters c) ∧
      t.bayCounters b =
        { s.bayCounters b with jobsEnded := (s.queue b).length.repeat advance (s.bayCounters b).jobsEnded } ∧
      (i = .bayOff ∨ (∀ j : SlotNo, (s.slot j).state = .active → (s.slot j).bay ≠ b) →
        t.engine = e ∧ t.handed = kept) ∧
      ∀ j : SlotNo, (s.slot j).state = .active → (s.slot j).bay = b →
        (i = .bayReset →
          t.engine = e ∧ t.handed = kept ++ if (s.slot j).mark = none then [.abortRequest (.job j)] else []) ∧
          (i = .latchOpen ∨ i = .bayFault ∨ i = .bayGone →
            (e.work ≠ some (.job j) → t.engine = e ∧ t.handed = kept) ∧
              ∀ c : BayNo, e.work = some (.job j) → e.selected = some c →
                let x : Ending := if e.state = .aborting then .aborted else .abandoned
                t.engine = { released e with ending := endingAfter e x } ∧
                  t.handed = kept ++ endingReports e x ++ .release c false ::
                    if lineHigh e then [.raise deviceSource BUS_HELD] else [])

/-- The identity read of a bay whose work is taken away (R11, R86): a candidate is removed; a read on the bus is aborted by
BAY-OFF and BAY-RESET, and it and a read being aborted are abandoned by the other instructions; else nothing changes. -/
def Sys2Proof.Claims.IdentityReadLeavesWithBay : Prop :=
  ∀ (s : State) (b : BayNo) (i : BayInstruction),
    let u := s.instruct b i
    let t := s.takeWork b i
    let gentle := i = .bayOff ∨ i = .bayReset
    let withRead := fun x : ReadStage => u.setBay b { u.bay b with read := x }
    ((s.bay b).read = .noRead → t = u) ∧ ((s.bay b).read = .candidate → t = withRead .noRead) ∧
      ((s.bay b).read = .onBus → gentle →
        t = { withRead .leaving with handed := u.handed ++ [.abortRequest (.identity b)] }) ∧
      ((s.bay b).read = .leaving → gentle → t = u) ∧
      ((s.bay b).read = .onBus ∨ (s.bay b).read = .leaving → ¬gentle → Abandoned (.identity b) (withRead .noRead) t)

/-- What a bay's transition does to the bay's work: its jobs, the bus and its identity read (R11, R86, R103). -/
def Obligations.BayWorkIsTakenAway : Prop :=
  Claims.BayInstructionDisposesOfJobs ∧ Claims.BayInstructionReachesBus ∧ Claims.IdentityReadLeavesWithBay

/-- A deadline expiry taken in WAITING ends the job EXPIRED (R105). -/
def Sys2Proof.Claims.DeadlineExpiryEndsJob : Prop :=
  ∀ (s : State) (j : SlotNo), (s.slot j).state = .waiting → (s.slot j).deadline.isSome →
    ∃ t, exec (.deadlineExpiry j) s = .next t.fillLine ∧ JobEnds j .expired 0 0 s t

/-- The end of an ACTIVE job by its ending report (R122) and of a WAITING job by its deadline (R105). -/
def Obligations.JobsEndWithFinalStatus : Prop :=
  Claims.JobEndingGivesFinalStatus ∧ Claims.DeadlineExpiryEndsJob

/-- A well-formed SUBMIT of any fields is read as those fields: its payload, written byte by byte by R192, decodes to them. -/
def Obligations.SubmitPayloadIsReadBack : Prop :=
  ∀ x : SubmitFields, Submittable x →
    submitLength (submitPayload x) = true ∧ submitFields (submitPayload x) = some x

/-- A SUBMIT that passes every check is ACCEPTED (R93, R100): the lowest FREE slot, the lowest free blocks with the out data,
the tail of its bay's queue, the live count reported, the deadline started. -/
def Sys2Proof.Claims.SubmitTakesSlotAndBlocks : Prop :=
  ∀ (q : Byte) (x : SubmitFields) (d : Identity) (j : SlotNo) (s : State), Submittable x →
    let f : Frame := ⟨0x08, q, submitPayload x⟩
    let need := (max x.outData.length (x.inLimit.getD 0) + 31) / 32
    let blocks := s.freeBlocks.take need
    Executes s f → (s.bay x.bay).state = .active → (s.bay x.bay).identity = some d →
    d.channelMap.getLsbD x.channel.toNat = true → (∀ i, ¬Carries s i x.tag) → s.liveCount x.bay < 8 →
    (s.slot j).state = .free → (∀ i, i < j → (s.slot i).state ≠ .free) → need ≤ s.freeBlocks.length →
    ∃ t u, exec (.submit q (submitPayload x)) s = .next t.fillLine ∧
      u = { s.popArrival f with
              jobs := u.jobs, handed := s.handed ++ [.liveCount x.bay (u.liveCount x.bay) false] } ∧
      u.slot j =
        { Slot.free with
          state := .waiting, tag := x.tag, bay := x.bay, channel := x.channel, kind := x.kind, compress := x.compress,
          outLength := x.outData.length, inLimit := x.inLimit, deadline := x.deadline.map ms, blocks := blocks } ∧
      (∀ i, i ≠ j → u.slot i = s.slot i) ∧ u.queue x.bay = s.queue x.bay ++ [j] ∧
      (∀ c, c ≠ x.bay → u.queue c = s.queue c) ∧ u.jobs.pool = poolStore s.jobs.pool blocks 0 x.outData ∧
      AnsweredFrom u t f 0x01 []

/-- A SUBMIT that R98 or R99 refuses, and nothing else changes: BAD-ARGUMENT for a malformed one; then in order NO-MODULE or
WRONG-STATE, NO-CHANNEL, TAG-IN-USE, QUEUE-FULL, NO-SLOT, NO-BUFFER. -/
def Sys2Proof.Claims.SubmitIsRefusedInOrder : Prop :=
  (∀ (q th tl bay channel kind flags limit dh dl : Byte) (out : List Byte) (s : State), out.length ≤ 240 →
    let p := [th, tl, bay, channel, kind, flags, limit, dh, dl] ++ out
    Executes s ⟨0x08, q, p⟩ →
    (8 ≤ bay.toNat ∨ 15 ≤ channel.toNat ∨ 2 ≤ kind.toNat ∨ 4 ≤ flags.toNat ∨ (kind = 0x00 ∧ out = []) ∨
      (kind = 0x00 ∧ limit ≠ 0) ∨ (kind = 0x01 ∧ (limit = 0 ∨ 241 ≤ limit.toNat)) ∨
      (flags.getLsbD 1 = true ∧ word dh dl = 0) ∨ (flags.getLsbD 1 = false ∧ word dh dl ≠ 0)) →
    ∃ t, exec (.submit q p) s = .next t.fillLine ∧ AnsweredFrom (s.popArrival ⟨0x08, q, p⟩) t ⟨0x08, q, p⟩ 0x13 []) ∧
    ∀ (q : Byte) (x : SubmitFields) (s : State), Submittable x →
      let f : Frame := ⟨0x08, q, submitPayload x⟩
      let offers := ∃ d, (s.bay x.bay).identity = some d ∧ d.channelMap.getLsbD x.channel.toNat = true
      let used := ∃ i, Carries s i x.tag
      let free := ∃ i : SlotNo, (s.slot i).state = .free
      Executes s f →
      ∃ t, exec (.submit q (submitPayload x)) s = .next t.fillLine ∧
        let answers := fun st : Byte => AnsweredFrom (s.popArrival f) t f st []
        ((s.bay x.bay).state = .empty → answers 0x23) ∧
          ((s.bay x.bay).state ≠ .empty → (s.bay x.bay).state ≠ .active → answers 0x20) ∧
          ((s.bay x.bay).state = .active → ¬offers → answers 0x33) ∧
          ((s.bay x.bay).state = .active → offers → used → answers 0x34) ∧
          ((s.bay x.bay).state = .active → offers → ¬used → 8 ≤ s.liveCount x.bay → answers 0x32) ∧
          ((s.bay x.bay).state = .active → offers → ¬used → s.liveCount x.bay < 8 → ¬free → answers 0x30) ∧
          ((s.bay x.bay).state = .active → offers → ¬used → s.liveCount x.bay < 8 → free →
            s.freeBlocks.length < (max x.outData.length (x.inLimit.getD 0) + 31) / 32 → answers 0x31)

/-- The free blocks are the blocks that no slot holds, in rising order, and the data bytes of a job lie in its blocks from the
first on (R93): data byte i is byte i mod 32 of the block at place i / 32, at pool address 32 * block + i mod 32. Storing
bytes writes them there and nowhere else, and loading reads them back. -/
def Sys2Proof.Claims.BlocksHoldTheirBytes : Prop :=
  (∀ s : State, s.freeBlocks.Pairwise (· < ·) ∧
      ∀ n : BlockNo, n ∈ s.freeBlocks ↔ ∀ j : SlotNo, n ∉ (s.slot j).blocks) ∧
    (∀ (m : List Host.Cell) (blocks : List BlockNo) (i n : Nat), i + n ≤ 32 * blocks.length →
      (poolLoad m blocks i n).length = n ∧
        ∀ k b, k < n → blocks[(i + k) / 32]? = some b →
          (poolLoad m blocks i n)[k]? = some (Memory.read m (32 * b.val + (i + k) % 32))) ∧
    ∀ (m : List Host.Cell) (blocks : List BlockNo) (i : Nat) (l : List Byte), Memory.wf m = true → blocks.Nodup →
      i + l.length ≤ 32 * blocks.length →
      let m' := poolStore m blocks i l
      (∀ k b, k < l.length → blocks[(i + k) / 32]? = some b →
          Memory.read m' (32 * b.val + (i + k) % 32) = l.getD k 0) ∧
        (∀ a, (∀ k b, k < l.length → blocks[(i + k) / 32]? = some b → a ≠ 32 * b.val + (i + k) % 32) →
          Memory.read m' a = Memory.read m a) ∧
        poolLoad m' blocks i l.length = l

/-- SUBMIT accepted (R100) and refused (R98, R99), and the blocks that a job's bytes lie in (R93). -/
def Obligations.SubmitIsAcceptedOrRefused : Prop :=
  Claims.SubmitTakesSlotAndBlocks ∧ Claims.SubmitIsRefusedInOrder ∧ Claims.BlocksHoldTheirBytes

/-- CANCEL by the state of the slot that carries its tag (R106 to R108): WAITING ends CANCELED; ACTIVE is marked CANCEL and an
abort asked for, unless it carries a mark; a done job is TOO-LATE; with no such slot NOT-FOUND. -/
def Obligations.CancelActsBySlotState : Prop :=
  ∀ (q : Byte) (tag : Word16) (s : State), s.TagsDistinct →
    let f : Frame := ⟨0x09, q, [hi tag, lo tag]⟩
    let s1 := s.popArrival f
    Executes s f →
    ∃ t, exec (.cancel q [hi tag, lo tag]) s = .next t.fillLine ∧
      ((∀ j, ¬Carries s j tag) → AnsweredFrom s1 t f 0x35 []) ∧
      ∀ j, Carries s j tag →
        ((s.slot j).state = .waiting → ∃ u, JobEnds j .canceled 0 0 s1 u ∧ AnsweredFrom u t f 0x00 []) ∧
          ((s.slot j).state = .active → (s.slot j).mark = none →
            AnsweredFrom
              { s1.setSlot j { s.slot j with mark := some .cancel } with
                handed := s.handed ++ [.abortRequest (.job j)] }
              t f 0x01 []) ∧
          ((s.slot j).state = .active → (s.slot j).mark ≠ none → AnsweredFrom s1 t f 0x01 []) ∧
          ((s.slot j).state = .donePending ∨ (s.slot j).state = .doneSent → AnsweredFrom s1 t f 0x36 [])

/-- JOB-STATUS reports the slot that carries the tag, in the layout of R192 with the codes of R188 and the absent markers of
R189, and changes nothing else; with no such slot it is NOT-FOUND (R111). The frame leaves the accepted frames (the model's choice, assumption log 10), and the reply
starts on an idle LINK_TX in the same step (the model's reading of R164, assumption log 12). -/
def Obligations.JobStatusChangesNothing : Prop :=
  ∀ (q : Byte) (tag : Word16) (s : State), s.TagsDistinct →
    let f : Frame := ⟨0x0A, q, [hi tag, lo tag]⟩
    let s1 := s.popArrival f
    Executes s f →
    ∃ t, exec (.jobStatus q [hi tag, lo tag]) s = .next t.fillLine ∧
      ((∀ j, ¬Carries s j tag) → AnsweredFrom s1 t f 0x35 []) ∧
      ∀ j, Carries s j tag →
        let k := s.slot j
        let head := fun st : Byte => [st, byteOf k.bay.val, k.channel, if k.kind = .write then 0x00 else 0x01]
        (k.state = .waiting →
          AnsweredFrom s1 t f 0x00
            (head 0x01 ++ [byteOf ((s.queue k.bay).idxOf j)] ++
              (match k.deadline with
              | some d => two (remainingMs d)
              | none => [0x00, 0x00]) ++
              [0xFF, 0xFF, 0x00, 0x00])) ∧
          (k.state = .active →
            AnsweredFrom s1 t f 0x00
              (head 0x02 ++
                [0xFF, 0x00, 0x00,
                 match k.mark with
                 | some m => jobStatusCode (markStatus m)
                 | none => 0xFF,
                 0xFF, 0x00, 0x00])) ∧
          (k.state = .donePending ∨ k.state = .doneSent →
            AnsweredFrom s1 t f 0x00
              (head (if k.state = .donePending then 0x03 else 0x04) ++
                [0xFF, 0x00, 0x00, 0xFF,
                 match k.final with
                 | some st => jobStatusCode st
                 | none => 0xFF,
                 byteOf k.bytesOut, byteOf k.bytesIn]))

/-! ## Events, configuration and counters -/

/-- CLEAR-EVENTS (R144, R145): the named bits leave the set; SERVICE is raised again where it was cleared and still holds; the
notice test follows; the reply carries the set before and after. A source above 8, or a mask beyond the device's three bits,
is refused. -/
def Obligations.ClearEventsRaisesServiceAgain : Prop :=
  ∀ (q src mask : Byte) (s : State),
    let f : Frame := ⟨0x14, q, [src, mask]⟩
    let s1 := s.popArrival f
    Executes s f →
    ∃ t, exec (.clearEvents q [src, mask]) s = .next t.fillLine ∧
      (9 ≤ src.toNat ∨ (src = 0x08 ∧ mask &&& ~~~0x07 ≠ 0) → AnsweredFrom s1 t f 0x13 []) ∧
      ∀ n : SourceNo, n.val = src.toNat → (src = 0x08 → mask &&& ~~~0x07 = 0) →
        ∃ u v w : State,
          u = s1.setSource n { s.source n with set := (s.source n).set &&& ~~~mask } ∧
            (let again := (s.source n).set &&& mask &&& SERVICE ≠ 0 ∧
              ∃ b : BayNo, b.val = n.val ∧ (s.bay b).state = .active ∧ (s.bay b).service = true
            (again → Recorded u v n SERVICE) ∧ (¬again → v = u)) ∧
            Tested v w n ∧ AnsweredFrom w t f 0x00 [(s.source n).set, (w.source n).set]

/-- SET-BAY-CONFIG (R137, R178, R180) stores a record in range for one bay, or with FFh for the bays 0 to 7 in that order, and a
mask bit newly set that is in the event set acts by R139; SET-LINK-CONFIG (R179, R180) stores the link configuration. A value
out of range is refused BAD-ARGUMENT, and nothing changes. -/
def Sys2Proof.Claims.ConfigurationIsStored : Prop :=
  (∀ (q byte : Byte) (c : BayConfig) (b : BayNo) (s : State), byte.toNat = b.val → bayConfigInRange c →
    let p := byte :: bayConfigBytes c
    let f : Frame := ⟨0x18, q, p⟩
    Executes s f →
    ∃ t u, exec (.setBayConfig q p) s = .next t.fillLine ∧ AnsweredFrom u t f 0x00 [] ∧
      RecordStored c b (s.popArrival f) u) ∧
    (∀ (q : Byte) (c : BayConfig) (s : State), bayConfigInRange c →
      let p := 0xFF :: bayConfigBytes c
      Executes s ⟨0x18, q, p⟩ →
      ∃ t u, exec (.setBayConfig q p) s = .next t.fillLine ∧ AnsweredFrom u t ⟨0x18, q, p⟩ 0x00 [] ∧
        RecordStoredAt c [0, 1, 2, 3, 4, 5, 6, 7] (s.popArrival ⟨0x18, q, p⟩) u ∧
        (∀ b, u.bayConfig b = c) ∧ u.config.link = s.config.link ∧
        u = { s.popArrival ⟨0x18, q, p⟩ with
                config := u.config, reporter := u.reporter, transmitter := u.transmitter }) ∧
    (∀ (q byte : Byte) (l : List Byte) (s : State), l.length = 10 → Executes s ⟨0x18, q, byte :: l⟩ →
      (8 ≤ byte.toNat ∧ byte ≠ 0xFF ∨ ¬∃ c, bayConfigInRange c ∧ l = bayConfigBytes c) →
      ∃ t, exec (.setBayConfig q (byte :: l)) s = .next t.fillLine ∧
        AnsweredFrom (s.popArrival ⟨0x18, q, byte :: l⟩) t ⟨0x18, q, byte :: l⟩ 0x13 []) ∧
    ∀ (q th tl r : Byte) (s : State),
      let f : Frame := ⟨0x1A, q, [th, tl, r]⟩
      let good := 5 ≤ (word th tl).toNat ∧ (word th tl).toNat ≤ 1000 ∧ 1 ≤ r.toNat ∧ r.toNat ≤ 8
      Executes s f →
      ∃ t, exec (.setLinkConfig q [th, tl, r]) s = .next t.fillLine ∧
        (good →
          AnsweredFrom
            { s.popArrival f with config := { s.config with link := { ackTimeout := word th tl, retryLimit := r } } }
            t f 0x00 []) ∧
        (¬good → AnsweredFrom (s.popArrival f) t f 0x13 [])

/-- GET-BAY-CONFIG and GET-LINK-CONFIG report the values held, and change nothing else (R182). -/
def Sys2Proof.Claims.ConfigurationIsReported : Prop :=
  ∀ (q byte : Byte) (b : BayNo) (s : State), byte.toNat = b.val →
    (Executes s ⟨0x19, q, [byte]⟩ →
      ∃ t, exec (.getBayConfig q [byte]) s = .next t.fillLine ∧
        let c := s.bayConfig b
        AnsweredFrom (s.popArrival ⟨0x19, q, [byte]⟩) t ⟨0x19, q, [byte]⟩ 0x00
          [c.powerUp, c.settle, c.discharge, c.byteTimeout, c.turnaround, c.faultLimit,
           if c.latchAction = .orderly then 0x00 else 0x01, if c.attentionAction = .nothing then 0x00 else 0x01,
           c.holdOff, c.notifyMask]) ∧
      (Executes s ⟨0x1B, q, []⟩ →
        ∃ t, exec (.getLinkConfig q []) s = .next t.fillLine ∧
          AnsweredFrom (s.popArrival ⟨0x1B, q, []⟩) t ⟨0x1B, q, []⟩ 0x00
            [hi s.config.link.ackTimeout, lo s.config.link.ackTimeout, s.config.link.retryLimit])

/-- The four configuration requests (R178 to R180, R182). -/
def Obligations.ConfigurationIsStoredAndReported : Prop :=
  Claims.ConfigurationIsStored ∧ Claims.ConfigurationIsReported

/-- GET-COUNTERS reports every counter of the source, as it stood, and with the clear flag sets them all to 0 (R183 to R185,
R192). A source above 8 or another flag is refused BAD-ARGUMENT. -/
def Obligations.CountersAreReportedAndCleared : Prop :=
  ∀ (q src flag : Byte) (s : State),
    let f : Frame := ⟨0x1C, q, [src, flag]⟩
    let s1 := s.popArrival f
    Executes s f →
    ∃ t, exec (.getCounters q [src, flag]) s = .next t.fillLine ∧
      (9 ≤ src.toNat ∨ 2 ≤ flag.toNat → AnsweredFrom s1 t f 0x13 []) ∧
      (∀ b : BayNo, src.toNat = b.val →
        let c := s.bayCounters b
        let l := src :: two c.jobsDone ++ two c.jobsEnded ++ two c.timeouts ++ two c.powerFaults ++ two c.presses
        (flag = 0x00 → AnsweredFrom s1 t f 0x00 l) ∧
          (flag = 0x01 → AnsweredFrom (s1.setBayCounters b ⟨0, 0, 0, 0, 0⟩) t f 0x00 l)) ∧
      (src = 0x08 →
        let c := s.counters.device
        let l := src :: two c.accepted ++ two c.discarded ++ two c.duplicates ++ two c.dropped ++
          two c.retransmitted ++ two c.staleAcks
        (flag = 0x00 → AnsweredFrom s1 t f 0x00 l) ∧
          (flag = 0x01 → AnsweredFrom (s1.setDeviceCounters ⟨0, 0, 0, 0, 0, 0⟩) t f 0x00 l))


/-! ## The Carrier Link -/

/-- A frame sent byte by byte is received (R149 to R151, R186): each byte but the last joins the assembly buffer and starts the
gap timer of 5 ms again; with the last the frame is accepted, counted, and handed on, and the search resumes. -/
def Obligations.FrameIsReceivedByteByByte : Prop :=
  ∀ (f : Frame) (before : List Byte) (c : Byte) (after : List Byte) (s : State), f.payload.length ≤ 250 →
    f.bytes = before ++ c :: after → s.port.buffer = before →
    (after ≠ [] →
      exec (.linkRxByte c) s =
        .next { s with port := { s.port with buffer := before ++ [c], gapTimer := some (ms 5) } }) ∧
      (after = [] →
        exec (.linkRxByte c) s =
          .next { s with
                    port := { s.port with buffer := [], gapTimer := none, arrivals := s.port.arrivals ++ [f] },
                    counters := { s.counters with device := framesCounted s.counters.device 1 0 } })

/-- A byte other than 5Ah is passed over by the search (R149). A 5Ah starts a candidate, and every byte that leaves a candidate
incomplete, whatever it is, joins the buffer and starts the gap timer of 5 ms again (R149, R151). A candidate is discarded for
its length (R149), its CRC (R150) or a gap (R151); the search then takes the bytes held after its SYNC as if they arrived
again. -/
def Obligations.DiscardedCandidateIsSearchedAgain : Prop :=
  ∀ (s : State) (c : Byte),
    (s.port.buffer = [] → c ≠ 0x5A →
      exec (.linkRxByte c) s = .next { s with port := { s.port with gapTimer := none } }) ∧
      (s.port.buffer = [] ∧ c = 0x5A ∨ s.port.buffer = [0x5A] ∧ 2 ≤ c.toNat ∧ c.toNat ≤ 252 ∨
          (∃ (len : Byte) (body : List Byte), s.port.buffer = 0x5A :: len :: body ∧ 2 ≤ len.toNat ∧ len.toNat ≤ 252 ∧
            body.length + 1 < len.toNat + 2) →
        exec (.linkRxByte c) s =
          .next { s with port := { s.port with buffer := s.port.buffer ++ [c], gapTimer := some (ms 5) } }) ∧
      (s.port.buffer = [0x5A] → c.toNat < 2 ∨ 252 < c.toNat → ∃ t, exec (.linkRxByte c) s = .next t ∧
        Arrives [c] (searching s) t) ∧
      (∀ (len crcHigh : Byte) (body : List Byte), s.port.buffer = 0x5A :: len :: body ++ [crcHigh] →
        2 ≤ len.toNat → len.toNat ≤ 252 → body.length = len.toNat → word crcHigh c ≠ crc16 (len :: body) →
        ∃ t, exec (.linkRxByte c) s = .next t ∧ Arrives (len :: body ++ [crcHigh, c]) (searching s) t) ∧
      (∀ l : List Byte, s.port.gapTimer.isSome → s.port.buffer = 0x5A :: l →
        ∃ t, exec .gapExpiry s = .next t ∧ Arrives l (searching s) t)

/-- OPEN (R154, R158, R159, R190), with the link UP or DOWN: in DOWN it starts a session; in UP with the stored nonce it is a
duplicate, and with another it ends the session and starts a new one. Each is answered with the OPEN reply of the session that
stands then. A payload not of two bytes is NO-SESSION in DOWN and BAD-LENGTH in UP, and a full reply queue drops the frame. -/
def Sys2Proof.Claims.OpenStartsSession : Prop :=
  ∀ (q : Byte) (p : List Byte) (s : State), s.handler.link ≠ .stalled →
    let s1 := s.popArrival ⟨0x01, q, p⟩
    ∃ t, exec (.openSession q p) s = .next t.fillLine ∧
      (8 ≤ s.handler.replies.length →
        t = { s1 with counters := { s1.counters with
                device := { s1.counters.device with dropped := advance s1.counters.device.dropped } } }) ∧
      (s.handler.replies.length < 8 →
        (p.length ≠ 2 →
          t = { s1 with handler := { s1.handler with
                  replies := s1.handler.replies ++
                    [⟨⟨0x81, q, [if s.handler.link = .down then 0x10 else 0x12]⟩, false⟩] } }) ∧
        (∀ nh nl, p = [nh, nl] → s.handler.link = .down →
          ∃ u, SessionStarted (word nh nl) s1 u ∧ t = openAnswered u q) ∧
        (∀ nh nl, p = [nh, nl] → s.handler.link = .up → s.handler.nonce = some (word nh nl) →
          t = openAnswered
                { s1 with counters := { s1.counters with
                    device := { s1.counters.device with duplicates := advance s1.counters.device.duplicates } } } q) ∧
        (∀ nh nl, p = [nh, nl] → s.handler.link = .up → s.handler.nonce ≠ some (word nh nl) →
          ∃ u v, SessionEnded [] s1 u ∧ SessionStarted (word nh nl) u v ∧ t = openAnswered v q))

/-- CLOSE and RESTART are answered OK and end the session; their reply stays as the queue's only entry (R157, R160, R161,
R163). -/
def Sys2Proof.Claims.CloseAndRestartEndSession : Prop :=
  ∀ (q : Byte) (s : State),
    (Executes s ⟨0x02, q, []⟩ →
      ∃ t, exec (.closeSession q []) s = .next t.fillLine ∧
        SessionEnded [⟨⟨0x82, q, [0x00]⟩, false⟩] (s.popArrival ⟨0x02, q, []⟩) t) ∧
      (Executes s ⟨0x04, q, []⟩ →
        ∃ t, exec (.restart q []) s = .next t.fillLine ∧
          SessionEnded [⟨⟨0x84, q, [0x00]⟩, true⟩] (s.popArrival ⟨0x04, q, []⟩) t)

/-- OPEN, CLOSE and RESTART (R158 to R161, R163). -/
def Obligations.SessionsStartAndEnd : Prop :=
  Claims.OpenStartsSession ∧ Claims.CloseAndRestartEndSession

/-- ACK, with the link UP or DOWN (R154 step 2, R171 to R173): the entries up to the number leave, oldest first, each removal
at its owner; the retry count is 0 and the ack timer set for what remains. A number that matches no entry, or a payload not of
one byte, is stale and counted. In DOWN the frame is ignored. -/
def Obligations.AckRemovesNotices : Prop :=
  ∀ (q : Byte) (p : List Byte) (s : State), s.handler.link ≠ .stalled →
    let s1 := s.popArrival ⟨0x05, q, p⟩
    let stale : State :=
      { s1 with counters := { s1.counters with
          device := { s1.counters.device with staleAcks := advance s1.counters.device.staleAcks } } }
    ∃ t, exec (.ack q p) s = .next t.fillLine ∧ (s.handler.link = .down → t = s1) ∧
      (s.handler.link = .up → p.length ≠ 1 → t = stale) ∧
      (∀ n, s.handler.link = .up → p = [n] → (∀ u ∈ s.transmitter.unacked, u.number ≠ n) → t = stale) ∧
      (∀ n before x after, s.handler.link = .up → p = [n] → s.transmitter.unacked = before ++ x :: after →
        x.number = n → (∀ u ∈ before, u.number ≠ n) →
        ∃ v,
          RemovedAll (before.map Unacked.notice ++ [x.notice])
              { s1 with transmitter := { s1.transmitter with unacked := after, retries := 0 } } v ∧
            t = { v with transmitter := { v.transmitter with
                    ackTimer :=
                      if after = [] then none
                      else if (∃ u ∈ after, u.due = true) ∨ s.port.sendingNotice = true then s.transmitter.ackTimer
                      else some (ms s.config.link.ackTimeout.toNat) } })

/-- A frame boundary (R161, R164, R170, R173): while LINK_TX is idle the next frame starts; at the end of a frame the line is
idle and the next frame starts, a notice's end first starting the ack timer where entries wait and none is due; the end of a
RESTART's reply is a hardware reset that samples the straps anew, whatever they then stand at (a free value, the model's choice,
assumption log 17). -/
def Sys2Proof.Claims.FrameEndIsBoundary : Prop :=
  ∀ s : State, ∃ t, exec .frameSent s = .next t ∧ (s.port.sending = none → BoundaryTaken s t) ∧
    ∀ f, s.port.sending = some f →
      let u : State := { s with port := { s.port with sending := none } }
      let waits := s.handler.link = .up ∧ s.transmitter.unacked ≠ [] ∧ ∀ x ∈ s.transmitter.unacked, x.due = false
      (f.restart = true →
          exec (.hardwareReset .restartRequest (Config.restartStraps s.freeDraws))
            { u with freeDraws := s.freeDraws + 1 } = .next t) ∧
        (f.restart = false → f.notice = false ∨ ¬waits → BoundaryTaken u t) ∧
        (f.restart = false → f.notice = true → waits →
          BoundaryTaken
            { u with transmitter := { s.transmitter with ackTimer := some (ms s.config.link.ackTimeout.toNat) } } t)

/-- At once (R164, R170): an idle LINK_TX takes the frame that a step has made ready; a busy one goes on. -/
def Sys2Proof.Claims.IdleLineTakesFrameAtOnce : Prop :=
  ∀ s : State, (s.port.sending = none → BoundaryTaken s s.fillLine) ∧ (s.port.sending ≠ none → s.fillLine = s)

/-- The time of a frame (R148, R164): its characters of 10 bits each at the rate the straps select, in units of 10 µs, rounded up
(the model's choice, assumption log 7). -/
def Sys2Proof.Claims.FrameTimeFollowsRate : Prop :=
  ∀ x ∈ ([(0, 115200), (1, 460800), (2, 1000000), (3, 3000000)] : List (BitVec 2 × Nat)), ∀ characters : Nat,
    let time := frameTime x.1 characters
    10 * characters * 100000 ≤ time * x.2 ∧ time * x.2 < 10 * characters * 100000 + x.2

/-- Frame boundaries, the start of a frame on an idle line, and the time a frame takes (R148, R161, R164, R170, R173). -/
def Obligations.FrameBoundarySendsNext : Prop :=
  Claims.FrameEndIsBoundary ∧ Claims.IdleLineTakesFrameAtOnce ∧ Claims.FrameTimeFollowsRate

/-- The ack timer expiry (R174, R175): the retry count rises by 1; where it is then not above the retry limit every
unacknowledged entry is due, else the link is STALLED and none is marked. -/
def Obligations.AckExpiryRetriesOrStalls : Prop :=
  ∀ s : State, s.transmitter.ackTimer.isSome →
    let again := s.transmitter.retries + 1 ≤ s.config.link.retryLimit.toNat
    let t : State :=
      { s with
        handler := { s.handler with link := if again then s.handler.link else .stalled },
        transmitter := { s.transmitter with
          retries := s.transmitter.retries + 1, ackTimer := none,
          unacked :=
            if again then s.transmitter.unacked.map fun x => { x with due := true }
            else s.transmitter.unacked } }
    exec .ackTimerExpiry s = .next t.fillLine

/-- The model's choice (assumption log 4): an event that cannot occur in the state given changes nothing: a debounced change
with no count running, an edge to a level that the line has, an expiry of a timer that is stopped, a report that is not on
its way. -/
def Obligations.EventsThatCannotOccurChangeNothing : Prop :=
  ∀ (s : State) (b : BayNo) (lines : BusByte),
    let same := fun c : Instr => exec c s = .next s
    ((s.bay b).presenceCount = none → same (.presenceAssert b) ∧ same (.presenceLoss b)) ∧
      ((s.bay b).latchCount = none → same (.latchChange b)) ∧
      ((s.bay b).attnCount = none → same (.attentionPress b) ∧ same (.attentionRelease b)) ∧
      ((s.bay b).pgood = true → same (.pgoodRise b)) ∧ ((s.bay b).pgood = false → same (.pgoodFall b)) ∧
      ((s.bay b).pfault = true → same (.pfaultAssert b)) ∧
      ((s.bay b).powerUpTimer = none → same (.powerUpExpiry b)) ∧
      ((s.bay b).settleTimer = none → same (.settleExpiryPowering b) ∧ same (.settleExpiryResetting b)) ∧
      ((s.bay b).pulseTimer = none → same (.resetPulseExpiry b)) ∧
      ((s.bay b).dischargeTimer = none → same (.dischargeExpiry b)) ∧
      ((s.bay b).holdOff = none → same (.holdOffExpiry b)) ∧
      (s.engine.ack = true → same (.mbAckRise lines)) ∧ (s.engine.ack = false → same .mbAckFall) ∧
      (s.engine.revack = true → same (.mbRevackRise lines)) ∧ (s.engine.revack = false → same .mbRevackFall) ∧
      (s.engine.byteTimer = none → same .byteTimerExpiry) ∧ (s.engine.turnTimer = none → same .turnaroundTimerExpiry) ∧
      (s.engine.heldTimer = none → same .heldTimerExpiry) ∧
      (s.engine.state ≠ .idle → same .grant) ∧
      (s.port.gapTimer = none → same .gapExpiry) ∧ (s.transmitter.ackTimer = none → same .ackTimerExpiry) ∧
      (∀ j : SlotNo, (s.slot j).deadline = none → same (.deadlineExpiry j)) ∧
      (s.handed = [] →
        same (.releaseReport b) ∧ same (.liveCountReport b) ∧ same (.timeoutAccountingReport b) ∧
          same (.busFaultReport b) ∧ same (.identityEndingReport b) ∧ (∀ j, same (.jobEndingReport j)) ∧
          ∀ n, same (.eventRaise n))

/-! ## What every step keeps -/

/-- Every bay record stays legal (R2, R6, R8, R9, R12, R30, R37, R44, R45, R79, R85, R86): the lines, phases, timers, fields and
indicators that the tables of chapters 1, 2 and 4 give each bay state. -/
def Obligations.BayRecordsStayLegal : Prop :=
  ∀ s t : State, s.BaysLegal → step s = .next t → t.BaysLegal

/-- The engine record and the lines of the Module Bus stay as the table of 03, section 3.4 gives them for the engine state (R52 to
R57, R60, R67, R74, R75). Two clauses rest on the model's readings: a byte that is due while MB_ACK is high stands on MB_D and
MB_CMD at once (assumption log 9), and no ending stands while a message goes forward, because the selection clears it
(assumption log 14). -/
def Obligations.EngineStaysLegal : Prop :=
  ∀ s t : State, s.engine.Legal → step s = .next t → t.engine.Legal

/-- The buffer pool stays in its canonical form, which is the model's own (assumption log 6): addresses strictly rising, and no
byte listed that reads as an unlisted one, 00h. And it stays within its 48 blocks of 32 bytes (R93): every listed address is
below 1536. -/
def Obligations.PoolStaysCanonical : Prop :=
  (∀ s t : State, Memory.wf s.jobs.pool = true → step s = .next t → Memory.wf t.jobs.pool = true) ∧
    ∀ s t : State, s.PoolBounded → step s = .next t → t.PoolBounded

/-- No block is held twice, the free blocks and the held blocks are 48 together (R93), and at most one job is ACTIVE in the
part (R91). -/
def Obligations.BlocksAndActiveJobStayApart : Prop :=
  (∀ s t : State, s.BlocksApart → step s = .next t → t.BlocksApart) ∧
    (∀ s : State, s.BlocksApart → s.freeBlocks.length + s.heldCount = 48) ∧
    ∀ s t : State, s.OneActive → step s = .next t → t.OneActive

/-- The Job Table's laws: at most 8 live jobs of a bay (R91), no tag carried twice (R92), the fields of each slot by its state
(R90), the queues of the WAITING jobs (R102), one JOB-DONE notice for each done slot (R96), and with the link DOWN no slot but
an orphan's (R112). -/
def Obligations.JobTableStaysLegal : Prop :=
  ∀ s t : State, s.TableLegal → step s = .next t → t.TableLegal

/-- Each source has at most one event notice in the lists, where its stage says (R138), and with the link DOWN every stage is
NONE (R134, R147). -/
def Obligations.EventNoticesStayLegal : Prop :=
  ∀ s t : State, s.EventsLegal → step s = .next t → t.EventsLegal

/-- The link's laws: at most 8 cached replies, no SEQ twice (R156), and 8 queued replies (R157); at most four unacknowledged
notices with consecutive numbers (R169), none with the link DOWN (R177); the ack timer only where R173 lets it run. Every
stored setting stays in its range (R178, R179). And no frame waits on an idle LINK_TX (R164, R170; the model's reading of "at
once", assumption log 12), so the reply queue is full only while LINK_TX is busy (R157). -/
def Obligations.LinkAndSettingsStayLegal : Prop :=
  (∀ s t : State, s.LinkLegal → step s = .next t → t.LinkLegal) ∧
    (∀ s t : State, s.SettingsLegal → step s = .next t → t.SettingsLegal) ∧
    (∀ s t : State, s.NoFrameWaits → step s = .next t → t.NoFrameWaits) ∧
    ∀ s : State, s.NoFrameWaits → 8 ≤ s.handler.replies.length → s.port.sending.isSome

/-- Every invariant above holds after reset. -/
def Obligations.InvariantsHoldAtReset : Prop :=
  let s := State.reset
  s.BaysLegal ∧ s.engine.Legal ∧ Memory.wf s.jobs.pool = true ∧ s.BlocksApart ∧ s.OneActive ∧ s.TableLegal ∧
    s.EventsLegal ∧ s.LinkLegal ∧ s.SettingsLegal ∧ s.PoolBounded ∧ s.NoFrameWaits
end

