-- ==== Sys2Proof/Laws/BayRecord.lean ====
section
/-! SUPPORT. What a Bay Controller's operations do to its own record: the end of a command, the indicators, and the transitions
of chapters 1 and 2, each said once. -/

namespace Sys2Proof.Machine

/-- The end of the command in the slot: the record, and COMMAND where one was pending (R10, R30). -/
theorem Bay.endCommand_eq (r : Bay) (x : CommandResult) :
    r.endCommand x =
      ({ r with
          pending := none,
          lastResult := (r.pending.map fun c => LastResult.mk c.command c.origin x).or r.lastResult },
        bitsIf r.pending.isSome COMMAND) := by
  unfold Bay.endCommand
  split
  · next h => cases r; simp_all [bitsIf]
  · next h => cases r; simp_all [bitsIf]

/-- Bringing the indicators up to date changes nothing else. -/
theorem Bay.relit_eq (r : Bay) :
    r.relit = { r with powerLed := (r.relit).powerLed, attnLed := (r.relit).attnLed } := rfl

/-- Indicators brought up to date follow the record (R44, R45). -/
theorem Bay.relit_leds (r : Bay) : (r.relit).LedsLegal := ⟨rfl, rfl⟩

@[simp] theorem Bay.relit_settings (r : Bay) :
    (r.relit).powerLed.setting = r.powerLed.setting ∧ (r.relit).attnLed.setting = r.attnLed.setting := ⟨rfl, rfl⟩

/-- A state entered: its name, no phase, cause, hold-off or timer, the rest as it was but for the indicators (R9, R45). -/
theorem Bay.enter_eq (r : Bay) (st : BayState) :
    r.enter st =
      { r with
        state := st, powerPhase := none, resetPhase := none, cause := none, holdOff := none, powerUpTimer := none,
        settleTimer := none, dischargeTimer := none, pulseTimer := none,
        powerLed := (r.enter st).powerLed, attnLed := (r.enter st).attnLed } := rfl

theorem Bay.enter_leds (r : Bay) (st : BayState) : (r.enter st).LedsLegal := ⟨rfl, rfl⟩

/-- The bits of an entry to FAULTED (R10, R12). -/
theorem Bay.fault_bits (r : Bay) (k : FaultCause) : (r.fault k).2 = bitsIf r.pending.isSome COMMAND ||| FAULT := by
  simp [Bay.fault, Bay.endCommand_eq]

theorem bits_ne_zero (c : Bool) : bitsIf c COMMAND ||| FAULT ≠ 0 := by cases c <;> decide

/-- The bits of an entry to EMPTY (R10, R27). -/
theorem Bay.remove_bits (r : Bay) :
    (r.remove).2 = bitsIf r.pending.isSome COMMAND ||| PRESENCE ||| bitsIf r.pen SURPRISE := by
  simp [Bay.remove, Bay.endCommand_eq]

end Sys2Proof.Machine
end

