-- ==== Sys2Proof/Laws/State.lean ====
section
/-! SUPPORT. What each update of one part of the state leaves as it was, and what it wrote: one lemma per field per
update, true by rfl. -/

namespace Sys2Proof.Machine

/-! ## setBay -/

@[simp] theorem State.setBay_pending (s : State) (b : BayNo) (r : Bay) : (s.setBay b r).pending = s.pending := rfl

@[simp] theorem State.setBay_engine (s : State) (b : BayNo) (r : Bay) : (s.setBay b r).engine = s.engine := rfl

@[simp] theorem State.setBay_jobs (s : State) (b : BayNo) (r : Bay) : (s.setBay b r).jobs = s.jobs := rfl

@[simp] theorem State.setBay_lastServed (s : State) (b : BayNo) (r : Bay) : (s.setBay b r).lastServed = s.lastServed := rfl

@[simp] theorem State.setBay_reporter (s : State) (b : BayNo) (r : Bay) : (s.setBay b r).reporter = s.reporter := rfl

@[simp] theorem State.setBay_handler (s : State) (b : BayNo) (r : Bay) : (s.setBay b r).handler = s.handler := rfl

@[simp] theorem State.setBay_port (s : State) (b : BayNo) (r : Bay) : (s.setBay b r).port = s.port := rfl

@[simp] theorem State.setBay_transmitter (s : State) (b : BayNo) (r : Bay) : (s.setBay b r).transmitter = s.transmitter := rfl

@[simp] theorem State.setBay_config (s : State) (b : BayNo) (r : Bay) : (s.setBay b r).config = s.config := rfl

@[simp] theorem State.setBay_counters (s : State) (b : BayNo) (r : Bay) : (s.setBay b r).counters = s.counters := rfl

@[simp] theorem State.setBay_blink (s : State) (b : BayNo) (r : Bay) : (s.setBay b r).blink = s.blink := rfl

@[simp] theorem State.setBay_handed (s : State) (b : BayNo) (r : Bay) : (s.setBay b r).handed = s.handed := rfl

@[simp] theorem State.setBay_freeDraws (s : State) (b : BayNo) (r : Bay) : (s.setBay b r).freeDraws = s.freeDraws := rfl

@[simp] theorem State.setBay_slot (s : State) (b : BayNo) (r : Bay) (i1 : SlotNo) :
    (s.setBay b r).slot i1 = s.slot i1 := rfl

@[simp] theorem State.setBay_queue (s : State) (b : BayNo) (r : Bay) (c1 : BayNo) :
    (s.setBay b r).queue c1 = s.queue c1 := rfl

@[simp] theorem State.setBay_source (s : State) (b : BayNo) (r : Bay) (m1 : SourceNo) :
    (s.setBay b r).source m1 = s.source m1 := rfl

@[simp] theorem State.setBay_bayConfig (s : State) (b : BayNo) (r : Bay) (c1 : BayNo) :
    (s.setBay b r).bayConfig c1 = s.bayConfig c1 := rfl

@[simp] theorem State.setBay_bayCounters (s : State) (b : BayNo) (r : Bay) (c1 : BayNo) :
    (s.setBay b r).bayCounters c1 = s.bayCounters c1 := rfl

@[simp] theorem State.setBay_mask (s : State) (b : BayNo) (r : Bay) (m1 : SourceNo) :
    (s.setBay b r).mask m1 = s.mask m1 := rfl

@[simp] theorem State.setBay_liveCount (s : State) (b : BayNo) (r : Bay) (c1 : BayNo) :
    (s.setBay b r).liveCount c1 = s.liveCount c1 := rfl

/-! ## setSlot -/

@[simp] theorem State.setSlot_pending (s : State) (j : SlotNo) (k : Slot) : (s.setSlot j k).pending = s.pending := rfl

@[simp] theorem State.setSlot_bays (s : State) (j : SlotNo) (k : Slot) : (s.setSlot j k).bays = s.bays := rfl

@[simp] theorem State.setSlot_engine (s : State) (j : SlotNo) (k : Slot) : (s.setSlot j k).engine = s.engine := rfl

@[simp] theorem State.setSlot_lastServed (s : State) (j : SlotNo) (k : Slot) : (s.setSlot j k).lastServed = s.lastServed := rfl

@[simp] theorem State.setSlot_reporter (s : State) (j : SlotNo) (k : Slot) : (s.setSlot j k).reporter = s.reporter := rfl

@[simp] theorem State.setSlot_handler (s : State) (j : SlotNo) (k : Slot) : (s.setSlot j k).handler = s.handler := rfl

@[simp] theorem State.setSlot_port (s : State) (j : SlotNo) (k : Slot) : (s.setSlot j k).port = s.port := rfl

@[simp] theorem State.setSlot_transmitter (s : State) (j : SlotNo) (k : Slot) : (s.setSlot j k).transmitter = s.transmitter := rfl

@[simp] theorem State.setSlot_config (s : State) (j : SlotNo) (k : Slot) : (s.setSlot j k).config = s.config := rfl

@[simp] theorem State.setSlot_counters (s : State) (j : SlotNo) (k : Slot) : (s.setSlot j k).counters = s.counters := rfl

@[simp] theorem State.setSlot_blink (s : State) (j : SlotNo) (k : Slot) : (s.setSlot j k).blink = s.blink := rfl

@[simp] theorem State.setSlot_handed (s : State) (j : SlotNo) (k : Slot) : (s.setSlot j k).handed = s.handed := rfl

@[simp] theorem State.setSlot_freeDraws (s : State) (j : SlotNo) (k : Slot) : (s.setSlot j k).freeDraws = s.freeDraws := rfl

@[simp] theorem State.setSlot_bay (s : State) (j : SlotNo) (k : Slot) (c1 : BayNo) :
    (s.setSlot j k).bay c1 = s.bay c1 := rfl

@[simp] theorem State.setSlot_queue (s : State) (j : SlotNo) (k : Slot) (c1 : BayNo) :
    (s.setSlot j k).queue c1 = s.queue c1 := rfl

@[simp] theorem State.setSlot_source (s : State) (j : SlotNo) (k : Slot) (m1 : SourceNo) :
    (s.setSlot j k).source m1 = s.source m1 := rfl

@[simp] theorem State.setSlot_bayConfig (s : State) (j : SlotNo) (k : Slot) (c1 : BayNo) :
    (s.setSlot j k).bayConfig c1 = s.bayConfig c1 := rfl

@[simp] theorem State.setSlot_bayCounters (s : State) (j : SlotNo) (k : Slot) (c1 : BayNo) :
    (s.setSlot j k).bayCounters c1 = s.bayCounters c1 := rfl

@[simp] theorem State.setSlot_mask (s : State) (j : SlotNo) (k : Slot) (m1 : SourceNo) :
    (s.setSlot j k).mask m1 = s.mask m1 := rfl

/-! ## setQueue -/

@[simp] theorem State.setQueue_pending (s : State) (b : BayNo) (q : List SlotNo) : (s.setQueue b q).pending = s.pending := rfl

@[simp] theorem State.setQueue_bays (s : State) (b : BayNo) (q : List SlotNo) : (s.setQueue b q).bays = s.bays := rfl

@[simp] theorem State.setQueue_engine (s : State) (b : BayNo) (q : List SlotNo) : (s.setQueue b q).engine = s.engine := rfl

@[simp] theorem State.setQueue_lastServed (s : State) (b : BayNo) (q : List SlotNo) : (s.setQueue b q).lastServed = s.lastServed := rfl

@[simp] theorem State.setQueue_reporter (s : State) (b : BayNo) (q : List SlotNo) : (s.setQueue b q).reporter = s.reporter := rfl

@[simp] theorem State.setQueue_handler (s : State) (b : BayNo) (q : List SlotNo) : (s.setQueue b q).handler = s.handler := rfl

@[simp] theorem State.setQueue_port (s : State) (b : BayNo) (q : List SlotNo) : (s.setQueue b q).port = s.port := rfl

@[simp] theorem State.setQueue_transmitter (s : State) (b : BayNo) (q : List SlotNo) : (s.setQueue b q).transmitter = s.transmitter := rfl

@[simp] theorem State.setQueue_config (s : State) (b : BayNo) (q : List SlotNo) : (s.setQueue b q).config = s.config := rfl

@[simp] theorem State.setQueue_counters (s : State) (b : BayNo) (q : List SlotNo) : (s.setQueue b q).counters = s.counters := rfl

@[simp] theorem State.setQueue_blink (s : State) (b : BayNo) (q : List SlotNo) : (s.setQueue b q).blink = s.blink := rfl

@[simp] theorem State.setQueue_handed (s : State) (b : BayNo) (q : List SlotNo) : (s.setQueue b q).handed = s.handed := rfl

@[simp] theorem State.setQueue_freeDraws (s : State) (b : BayNo) (q : List SlotNo) : (s.setQueue b q).freeDraws = s.freeDraws := rfl

@[simp] theorem State.setQueue_bay (s : State) (b : BayNo) (q : List SlotNo) (c1 : BayNo) :
    (s.setQueue b q).bay c1 = s.bay c1 := rfl

@[simp] theorem State.setQueue_slot (s : State) (b : BayNo) (q : List SlotNo) (i1 : SlotNo) :
    (s.setQueue b q).slot i1 = s.slot i1 := rfl

@[simp] theorem State.setQueue_source (s : State) (b : BayNo) (q : List SlotNo) (m1 : SourceNo) :
    (s.setQueue b q).source m1 = s.source m1 := rfl

@[simp] theorem State.setQueue_bayConfig (s : State) (b : BayNo) (q : List SlotNo) (c1 : BayNo) :
    (s.setQueue b q).bayConfig c1 = s.bayConfig c1 := rfl

@[simp] theorem State.setQueue_bayCounters (s : State) (b : BayNo) (q : List SlotNo) (c1 : BayNo) :
    (s.setQueue b q).bayCounters c1 = s.bayCounters c1 := rfl

@[simp] theorem State.setQueue_mask (s : State) (b : BayNo) (q : List SlotNo) (m1 : SourceNo) :
    (s.setQueue b q).mask m1 = s.mask m1 := rfl

@[simp] theorem State.setQueue_liveCount (s : State) (b : BayNo) (q : List SlotNo) (c1 : BayNo) :
    (s.setQueue b q).liveCount c1 = s.liveCount c1 := rfl

/-! ## setPool -/

@[simp] theorem State.setPool_pending (s : State) (m : List Host.Cell) : (s.setPool m).pending = s.pending := rfl

@[simp] theorem State.setPool_bays (s : State) (m : List Host.Cell) : (s.setPool m).bays = s.bays := rfl

@[simp] theorem State.setPool_engine (s : State) (m : List Host.Cell) : (s.setPool m).engine = s.engine := rfl

@[simp] theorem State.setPool_lastServed (s : State) (m : List Host.Cell) : (s.setPool m).lastServed = s.lastServed := rfl

@[simp] theorem State.setPool_reporter (s : State) (m : List Host.Cell) : (s.setPool m).reporter = s.reporter := rfl

@[simp] theorem State.setPool_handler (s : State) (m : List Host.Cell) : (s.setPool m).handler = s.handler := rfl

@[simp] theorem State.setPool_port (s : State) (m : List Host.Cell) : (s.setPool m).port = s.port := rfl

@[simp] theorem State.setPool_transmitter (s : State) (m : List Host.Cell) : (s.setPool m).transmitter = s.transmitter := rfl

@[simp] theorem State.setPool_config (s : State) (m : List Host.Cell) : (s.setPool m).config = s.config := rfl

@[simp] theorem State.setPool_counters (s : State) (m : List Host.Cell) : (s.setPool m).counters = s.counters := rfl

@[simp] theorem State.setPool_blink (s : State) (m : List Host.Cell) : (s.setPool m).blink = s.blink := rfl

@[simp] theorem State.setPool_handed (s : State) (m : List Host.Cell) : (s.setPool m).handed = s.handed := rfl

@[simp] theorem State.setPool_freeDraws (s : State) (m : List Host.Cell) : (s.setPool m).freeDraws = s.freeDraws := rfl

@[simp] theorem State.setPool_bay (s : State) (m : List Host.Cell) (c1 : BayNo) :
    (s.setPool m).bay c1 = s.bay c1 := rfl

@[simp] theorem State.setPool_slot (s : State) (m : List Host.Cell) (i1 : SlotNo) :
    (s.setPool m).slot i1 = s.slot i1 := rfl

@[simp] theorem State.setPool_queue (s : State) (m : List Host.Cell) (c1 : BayNo) :
    (s.setPool m).queue c1 = s.queue c1 := rfl

@[simp] theorem State.setPool_source (s : State) (m : List Host.Cell) (m1 : SourceNo) :
    (s.setPool m).source m1 = s.source m1 := rfl

@[simp] theorem State.setPool_bayConfig (s : State) (m : List Host.Cell) (c1 : BayNo) :
    (s.setPool m).bayConfig c1 = s.bayConfig c1 := rfl

@[simp] theorem State.setPool_bayCounters (s : State) (m : List Host.Cell) (c1 : BayNo) :
    (s.setPool m).bayCounters c1 = s.bayCounters c1 := rfl

@[simp] theorem State.setPool_mask (s : State) (m : List Host.Cell) (m1 : SourceNo) :
    (s.setPool m).mask m1 = s.mask m1 := rfl

@[simp] theorem State.setPool_liveCount (s : State) (m : List Host.Cell) (c1 : BayNo) :
    (s.setPool m).liveCount c1 = s.liveCount c1 := rfl

/-! ## setSource -/

@[simp] theorem State.setSource_pending (s : State) (n : SourceNo) (r : SourceRecord) : (s.setSource n r).pending = s.pending := rfl

@[simp] theorem State.setSource_bays (s : State) (n : SourceNo) (r : SourceRecord) : (s.setSource n r).bays = s.bays := rfl

@[simp] theorem State.setSource_engine (s : State) (n : SourceNo) (r : SourceRecord) : (s.setSource n r).engine = s.engine := rfl

@[simp] theorem State.setSource_jobs (s : State) (n : SourceNo) (r : SourceRecord) : (s.setSource n r).jobs = s.jobs := rfl

@[simp] theorem State.setSource_lastServed (s : State) (n : SourceNo) (r : SourceRecord) : (s.setSource n r).lastServed = s.lastServed := rfl

@[simp] theorem State.setSource_handler (s : State) (n : SourceNo) (r : SourceRecord) : (s.setSource n r).handler = s.handler := rfl

@[simp] theorem State.setSource_port (s : State) (n : SourceNo) (r : SourceRecord) : (s.setSource n r).port = s.port := rfl

@[simp] theorem State.setSource_transmitter (s : State) (n : SourceNo) (r : SourceRecord) : (s.setSource n r).transmitter = s.transmitter := rfl

@[simp] theorem State.setSource_config (s : State) (n : SourceNo) (r : SourceRecord) : (s.setSource n r).config = s.config := rfl

@[simp] theorem State.setSource_counters (s : State) (n : SourceNo) (r : SourceRecord) : (s.setSource n r).counters = s.counters := rfl

@[simp] theorem State.setSource_blink (s : State) (n : SourceNo) (r : SourceRecord) : (s.setSource n r).blink = s.blink := rfl

@[simp] theorem State.setSource_handed (s : State) (n : SourceNo) (r : SourceRecord) : (s.setSource n r).handed = s.handed := rfl

@[simp] theorem State.setSource_freeDraws (s : State) (n : SourceNo) (r : SourceRecord) : (s.setSource n r).freeDraws = s.freeDraws := rfl

@[simp] theorem State.setSource_bay (s : State) (n : SourceNo) (r : SourceRecord) (c1 : BayNo) :
    (s.setSource n r).bay c1 = s.bay c1 := rfl

@[simp] theorem State.setSource_slot (s : State) (n : SourceNo) (r : SourceRecord) (i1 : SlotNo) :
    (s.setSource n r).slot i1 = s.slot i1 := rfl

@[simp] theorem State.setSource_queue (s : State) (n : SourceNo) (r : SourceRecord) (c1 : BayNo) :
    (s.setSource n r).queue c1 = s.queue c1 := rfl

@[simp] theorem State.setSource_bayConfig (s : State) (n : SourceNo) (r : SourceRecord) (c1 : BayNo) :
    (s.setSource n r).bayConfig c1 = s.bayConfig c1 := rfl

@[simp] theorem State.setSource_bayCounters (s : State) (n : SourceNo) (r : SourceRecord) (c1 : BayNo) :
    (s.setSource n r).bayCounters c1 = s.bayCounters c1 := rfl

@[simp] theorem State.setSource_mask (s : State) (n : SourceNo) (r : SourceRecord) (m1 : SourceNo) :
    (s.setSource n r).mask m1 = s.mask m1 := rfl

@[simp] theorem State.setSource_liveCount (s : State) (n : SourceNo) (r : SourceRecord) (c1 : BayNo) :
    (s.setSource n r).liveCount c1 = s.liveCount c1 := rfl

/-! ## setBayConfig -/

@[simp] theorem State.setBayConfig_pending (s : State) (b : BayNo) (c : BayConfig) : (s.setBayConfig b c).pending = s.pending := rfl

@[simp] theorem State.setBayConfig_bays (s : State) (b : BayNo) (c : BayConfig) : (s.setBayConfig b c).bays = s.bays := rfl

@[simp] theorem State.setBayConfig_engine (s : State) (b : BayNo) (c : BayConfig) : (s.setBayConfig b c).engine = s.engine := rfl

@[simp] theorem State.setBayConfig_jobs (s : State) (b : BayNo) (c : BayConfig) : (s.setBayConfig b c).jobs = s.jobs := rfl

@[simp] theorem State.setBayConfig_lastServed (s : State) (b : BayNo) (c : BayConfig) : (s.setBayConfig b c).lastServed = s.lastServed := rfl

@[simp] theorem State.setBayConfig_reporter (s : State) (b : BayNo) (c : BayConfig) : (s.setBayConfig b c).reporter = s.reporter := rfl

@[simp] theorem State.setBayConfig_handler (s : State) (b : BayNo) (c : BayConfig) : (s.setBayConfig b c).handler = s.handler := rfl

@[simp] theorem State.setBayConfig_port (s : State) (b : BayNo) (c : BayConfig) : (s.setBayConfig b c).port = s.port := rfl

@[simp] theorem State.setBayConfig_transmitter (s : State) (b : BayNo) (c : BayConfig) : (s.setBayConfig b c).transmitter = s.transmitter := rfl

@[simp] theorem State.setBayConfig_counters (s : State) (b : BayNo) (c : BayConfig) : (s.setBayConfig b c).counters = s.counters := rfl

@[simp] theorem State.setBayConfig_blink (s : State) (b : BayNo) (c : BayConfig) : (s.setBayConfig b c).blink = s.blink := rfl

@[simp] theorem State.setBayConfig_handed (s : State) (b : BayNo) (c : BayConfig) : (s.setBayConfig b c).handed = s.handed := rfl

@[simp] theorem State.setBayConfig_freeDraws (s : State) (b : BayNo) (c : BayConfig) : (s.setBayConfig b c).freeDraws = s.freeDraws := rfl

@[simp] theorem State.setBayConfig_bay (s : State) (b : BayNo) (c : BayConfig) (c1 : BayNo) :
    (s.setBayConfig b c).bay c1 = s.bay c1 := rfl

@[simp] theorem State.setBayConfig_slot (s : State) (b : BayNo) (c : BayConfig) (i1 : SlotNo) :
    (s.setBayConfig b c).slot i1 = s.slot i1 := rfl

@[simp] theorem State.setBayConfig_queue (s : State) (b : BayNo) (c : BayConfig) (c1 : BayNo) :
    (s.setBayConfig b c).queue c1 = s.queue c1 := rfl

@[simp] theorem State.setBayConfig_source (s : State) (b : BayNo) (c : BayConfig) (m1 : SourceNo) :
    (s.setBayConfig b c).source m1 = s.source m1 := rfl

@[simp] theorem State.setBayConfig_bayCounters (s : State) (b : BayNo) (c : BayConfig) (c1 : BayNo) :
    (s.setBayConfig b c).bayCounters c1 = s.bayCounters c1 := rfl

@[simp] theorem State.setBayConfig_liveCount (s : State) (b : BayNo) (c : BayConfig) (c1 : BayNo) :
    (s.setBayConfig b c).liveCount c1 = s.liveCount c1 := rfl

/-! ## setBayCounters -/

@[simp] theorem State.setBayCounters_pending (s : State) (b : BayNo) (c : BayCounters) : (s.setBayCounters b c).pending = s.pending := rfl

@[simp] theorem State.setBayCounters_bays (s : State) (b : BayNo) (c : BayCounters) : (s.setBayCounters b c).bays = s.bays := rfl

@[simp] theorem State.setBayCounters_engine (s : State) (b : BayNo) (c : BayCounters) : (s.setBayCounters b c).engine = s.engine := rfl

@[simp] theorem State.setBayCounters_jobs (s : State) (b : BayNo) (c : BayCounters) : (s.setBayCounters b c).jobs = s.jobs := rfl

@[simp] theorem State.setBayCounters_lastServed (s : State) (b : BayNo) (c : BayCounters) : (s.setBayCounters b c).lastServed = s.lastServed := rfl

@[simp] theorem State.setBayCounters_reporter (s : State) (b : BayNo) (c : BayCounters) : (s.setBayCounters b c).reporter = s.reporter := rfl

@[simp] theorem State.setBayCounters_handler (s : State) (b : BayNo) (c : BayCounters) : (s.setBayCounters b c).handler = s.handler := rfl

@[simp] theorem State.setBayCounters_port (s : State) (b : BayNo) (c : BayCounters) : (s.setBayCounters b c).port = s.port := rfl

@[simp] theorem State.setBayCounters_transmitter (s : State) (b : BayNo) (c : BayCounters) : (s.setBayCounters b c).transmitter = s.transmitter := rfl

@[simp] theorem State.setBayCounters_config (s : State) (b : BayNo) (c : BayCounters) : (s.setBayCounters b c).config = s.config := rfl

@[simp] theorem State.setBayCounters_blink (s : State) (b : BayNo) (c : BayCounters) : (s.setBayCounters b c).blink = s.blink := rfl

@[simp] theorem State.setBayCounters_handed (s : State) (b : BayNo) (c : BayCounters) : (s.setBayCounters b c).handed = s.handed := rfl

@[simp] theorem State.setBayCounters_freeDraws (s : State) (b : BayNo) (c : BayCounters) : (s.setBayCounters b c).freeDraws = s.freeDraws := rfl

@[simp] theorem State.setBayCounters_bay (s : State) (b : BayNo) (c : BayCounters) (c1 : BayNo) :
    (s.setBayCounters b c).bay c1 = s.bay c1 := rfl

@[simp] theorem State.setBayCounters_slot (s : State) (b : BayNo) (c : BayCounters) (i1 : SlotNo) :
    (s.setBayCounters b c).slot i1 = s.slot i1 := rfl

@[simp] theorem State.setBayCounters_queue (s : State) (b : BayNo) (c : BayCounters) (c1 : BayNo) :
    (s.setBayCounters b c).queue c1 = s.queue c1 := rfl

@[simp] theorem State.setBayCounters_source (s : State) (b : BayNo) (c : BayCounters) (m1 : SourceNo) :
    (s.setBayCounters b c).source m1 = s.source m1 := rfl

@[simp] theorem State.setBayCounters_bayConfig (s : State) (b : BayNo) (c : BayCounters) (c1 : BayNo) :
    (s.setBayCounters b c).bayConfig c1 = s.bayConfig c1 := rfl

@[simp] theorem State.setBayCounters_mask (s : State) (b : BayNo) (c : BayCounters) (m1 : SourceNo) :
    (s.setBayCounters b c).mask m1 = s.mask m1 := rfl

@[simp] theorem State.setBayCounters_liveCount (s : State) (b : BayNo) (c : BayCounters) (c1 : BayNo) :
    (s.setBayCounters b c).liveCount c1 = s.liveCount c1 := rfl

/-! ## setDeviceCounters -/

@[simp] theorem State.setDeviceCounters_pending (s : State) (c : DeviceCounters) : (s.setDeviceCounters c).pending = s.pending := rfl

@[simp] theorem State.setDeviceCounters_bays (s : State) (c : DeviceCounters) : (s.setDeviceCounters c).bays = s.bays := rfl

@[simp] theorem State.setDeviceCounters_engine (s : State) (c : DeviceCounters) : (s.setDeviceCounters c).engine = s.engine := rfl

@[simp] theorem State.setDeviceCounters_jobs (s : State) (c : DeviceCounters) : (s.setDeviceCounters c).jobs = s.jobs := rfl

@[simp] theorem State.setDeviceCounters_lastServed (s : State) (c : DeviceCounters) : (s.setDeviceCounters c).lastServed = s.lastServed := rfl

@[simp] theorem State.setDeviceCounters_reporter (s : State) (c : DeviceCounters) : (s.setDeviceCounters c).reporter = s.reporter := rfl

@[simp] theorem State.setDeviceCounters_handler (s : State) (c : DeviceCounters) : (s.setDeviceCounters c).handler = s.handler := rfl

@[simp] theorem State.setDeviceCounters_port (s : State) (c : DeviceCounters) : (s.setDeviceCounters c).port = s.port := rfl

@[simp] theorem State.setDeviceCounters_transmitter (s : State) (c : DeviceCounters) : (s.setDeviceCounters c).transmitter = s.transmitter := rfl

@[simp] theorem State.setDeviceCounters_config (s : State) (c : DeviceCounters) : (s.setDeviceCounters c).config = s.config := rfl

@[simp] theorem State.setDeviceCounters_blink (s : State) (c : DeviceCounters) : (s.setDeviceCounters c).blink = s.blink := rfl

@[simp] theorem State.setDeviceCounters_handed (s : State) (c : DeviceCounters) : (s.setDeviceCounters c).handed = s.handed := rfl

@[simp] theorem State.setDeviceCounters_freeDraws (s : State) (c : DeviceCounters) : (s.setDeviceCounters c).freeDraws = s.freeDraws := rfl

@[simp] theorem State.setDeviceCounters_bay (s : State) (c : DeviceCounters) (c1 : BayNo) :
    (s.setDeviceCounters c).bay c1 = s.bay c1 := rfl

@[simp] theorem State.setDeviceCounters_slot (s : State) (c : DeviceCounters) (i1 : SlotNo) :
    (s.setDeviceCounters c).slot i1 = s.slot i1 := rfl

@[simp] theorem State.setDeviceCounters_queue (s : State) (c : DeviceCounters) (c1 : BayNo) :
    (s.setDeviceCounters c).queue c1 = s.queue c1 := rfl

@[simp] theorem State.setDeviceCounters_source (s : State) (c : DeviceCounters) (m1 : SourceNo) :
    (s.setDeviceCounters c).source m1 = s.source m1 := rfl

@[simp] theorem State.setDeviceCounters_bayConfig (s : State) (c : DeviceCounters) (c1 : BayNo) :
    (s.setDeviceCounters c).bayConfig c1 = s.bayConfig c1 := rfl

@[simp] theorem State.setDeviceCounters_bayCounters (s : State) (c : DeviceCounters) (c1 : BayNo) :
    (s.setDeviceCounters c).bayCounters c1 = s.bayCounters c1 := rfl

@[simp] theorem State.setDeviceCounters_mask (s : State) (c : DeviceCounters) (m1 : SourceNo) :
    (s.setDeviceCounters c).mask m1 = s.mask m1 := rfl

@[simp] theorem State.setDeviceCounters_liveCount (s : State) (c : DeviceCounters) (c1 : BayNo) :
    (s.setDeviceCounters c).liveCount c1 = s.liveCount c1 := rfl

/-! ## hand -/

@[simp] theorem State.hand_pending (s : State) (r : Report) : (s.hand r).pending = s.pending := rfl

@[simp] theorem State.hand_bays (s : State) (r : Report) : (s.hand r).bays = s.bays := rfl

@[simp] theorem State.hand_engine (s : State) (r : Report) : (s.hand r).engine = s.engine := rfl

@[simp] theorem State.hand_jobs (s : State) (r : Report) : (s.hand r).jobs = s.jobs := rfl

@[simp] theorem State.hand_lastServed (s : State) (r : Report) : (s.hand r).lastServed = s.lastServed := rfl

@[simp] theorem State.hand_reporter (s : State) (r : Report) : (s.hand r).reporter = s.reporter := rfl

@[simp] theorem State.hand_handler (s : State) (r : Report) : (s.hand r).handler = s.handler := rfl

@[simp] theorem State.hand_port (s : State) (r : Report) : (s.hand r).port = s.port := rfl

@[simp] theorem State.hand_transmitter (s : State) (r : Report) : (s.hand r).transmitter = s.transmitter := rfl

@[simp] theorem State.hand_config (s : State) (r : Report) : (s.hand r).config = s.config := rfl

@[simp] theorem State.hand_counters (s : State) (r : Report) : (s.hand r).counters = s.counters := rfl

@[simp] theorem State.hand_blink (s : State) (r : Report) : (s.hand r).blink = s.blink := rfl

@[simp] theorem State.hand_freeDraws (s : State) (r : Report) : (s.hand r).freeDraws = s.freeDraws := rfl

@[simp] theorem State.hand_bay (s : State) (r : Report) (c1 : BayNo) :
    (s.hand r).bay c1 = s.bay c1 := rfl

@[simp] theorem State.hand_slot (s : State) (r : Report) (i1 : SlotNo) :
    (s.hand r).slot i1 = s.slot i1 := rfl

@[simp] theorem State.hand_queue (s : State) (r : Report) (c1 : BayNo) :
    (s.hand r).queue c1 = s.queue c1 := rfl

@[simp] theorem State.hand_source (s : State) (r : Report) (m1 : SourceNo) :
    (s.hand r).source m1 = s.source m1 := rfl

@[simp] theorem State.hand_bayConfig (s : State) (r : Report) (c1 : BayNo) :
    (s.hand r).bayConfig c1 = s.bayConfig c1 := rfl

@[simp] theorem State.hand_bayCounters (s : State) (r : Report) (c1 : BayNo) :
    (s.hand r).bayCounters c1 = s.bayCounters c1 := rfl

@[simp] theorem State.hand_mask (s : State) (r : Report) (m1 : SourceNo) :
    (s.hand r).mask m1 = s.mask m1 := rfl

@[simp] theorem State.hand_liveCount (s : State) (r : Report) (c1 : BayNo) :
    (s.hand r).liveCount c1 = s.liveCount c1 := rfl

/-! ## handAll -/

@[simp] theorem State.handAll_pending (s : State) (rs : List Report) : (s.handAll rs).pending = s.pending := rfl

@[simp] theorem State.handAll_bays (s : State) (rs : List Report) : (s.handAll rs).bays = s.bays := rfl

@[simp] theorem State.handAll_engine (s : State) (rs : List Report) : (s.handAll rs).engine = s.engine := rfl

@[simp] theorem State.handAll_jobs (s : State) (rs : List Report) : (s.handAll rs).jobs = s.jobs := rfl

@[simp] theorem State.handAll_lastServed (s : State) (rs : List Report) : (s.handAll rs).lastServed = s.lastServed := rfl

@[simp] theorem State.handAll_reporter (s : State) (rs : List Report) : (s.handAll rs).reporter = s.reporter := rfl

@[simp] theorem State.handAll_handler (s : State) (rs : List Report) : (s.handAll rs).handler = s.handler := rfl

@[simp] theorem State.handAll_port (s : State) (rs : List Report) : (s.handAll rs).port = s.port := rfl

@[simp] theorem State.handAll_transmitter (s : State) (rs : List Report) : (s.handAll rs).transmitter = s.transmitter := rfl

@[simp] theorem State.handAll_config (s : State) (rs : List Report) : (s.handAll rs).config = s.config := rfl

@[simp] theorem State.handAll_counters (s : State) (rs : List Report) : (s.handAll rs).counters = s.counters := rfl

@[simp] theorem State.handAll_blink (s : State) (rs : List Report) : (s.handAll rs).blink = s.blink := rfl

@[simp] theorem State.handAll_freeDraws (s : State) (rs : List Report) : (s.handAll rs).freeDraws = s.freeDraws := rfl

@[simp] theorem State.handAll_bay (s : State) (rs : List Report) (c1 : BayNo) :
    (s.handAll rs).bay c1 = s.bay c1 := rfl

@[simp] theorem State.handAll_slot (s : State) (rs : List Report) (i1 : SlotNo) :
    (s.handAll rs).slot i1 = s.slot i1 := rfl

@[simp] theorem State.handAll_queue (s : State) (rs : List Report) (c1 : BayNo) :
    (s.handAll rs).queue c1 = s.queue c1 := rfl

@[simp] theorem State.handAll_source (s : State) (rs : List Report) (m1 : SourceNo) :
    (s.handAll rs).source m1 = s.source m1 := rfl

@[simp] theorem State.handAll_bayConfig (s : State) (rs : List Report) (c1 : BayNo) :
    (s.handAll rs).bayConfig c1 = s.bayConfig c1 := rfl

@[simp] theorem State.handAll_bayCounters (s : State) (rs : List Report) (c1 : BayNo) :
    (s.handAll rs).bayCounters c1 = s.bayCounters c1 := rfl

@[simp] theorem State.handAll_mask (s : State) (rs : List Report) (m1 : SourceNo) :
    (s.handAll rs).mask m1 = s.mask m1 := rfl

@[simp] theorem State.handAll_liveCount (s : State) (rs : List Report) (c1 : BayNo) :
    (s.handAll rs).liveCount c1 = s.liveCount c1 := rfl

/-! ## setTransmitter -/

@[simp] theorem State.setTransmitter_pending (s : State) (t : Transmitter) : (s.setTransmitter t).pending = s.pending := rfl

@[simp] theorem State.setTransmitter_bays (s : State) (t : Transmitter) : (s.setTransmitter t).bays = s.bays := rfl

@[simp] theorem State.setTransmitter_engine (s : State) (t : Transmitter) : (s.setTransmitter t).engine = s.engine := rfl

@[simp] theorem State.setTransmitter_jobs (s : State) (t : Transmitter) : (s.setTransmitter t).jobs = s.jobs := rfl

@[simp] theorem State.setTransmitter_lastServed (s : State) (t : Transmitter) : (s.setTransmitter t).lastServed = s.lastServed := rfl

@[simp] theorem State.setTransmitter_reporter (s : State) (t : Transmitter) : (s.setTransmitter t).reporter = s.reporter := rfl

@[simp] theorem State.setTransmitter_handler (s : State) (t : Transmitter) : (s.setTransmitter t).handler = s.handler := rfl

@[simp] theorem State.setTransmitter_port (s : State) (t : Transmitter) : (s.setTransmitter t).port = s.port := rfl

@[simp] theorem State.setTransmitter_config (s : State) (t : Transmitter) : (s.setTransmitter t).config = s.config := rfl

@[simp] theorem State.setTransmitter_counters (s : State) (t : Transmitter) : (s.setTransmitter t).counters = s.counters := rfl

@[simp] theorem State.setTransmitter_blink (s : State) (t : Transmitter) : (s.setTransmitter t).blink = s.blink := rfl

@[simp] theorem State.setTransmitter_handed (s : State) (t : Transmitter) : (s.setTransmitter t).handed = s.handed := rfl

@[simp] theorem State.setTransmitter_freeDraws (s : State) (t : Transmitter) : (s.setTransmitter t).freeDraws = s.freeDraws := rfl

@[simp] theorem State.setTransmitter_bay (s : State) (t : Transmitter) (c1 : BayNo) :
    (s.setTransmitter t).bay c1 = s.bay c1 := rfl

@[simp] theorem State.setTransmitter_slot (s : State) (t : Transmitter) (i1 : SlotNo) :
    (s.setTransmitter t).slot i1 = s.slot i1 := rfl

@[simp] theorem State.setTransmitter_queue (s : State) (t : Transmitter) (c1 : BayNo) :
    (s.setTransmitter t).queue c1 = s.queue c1 := rfl

@[simp] theorem State.setTransmitter_source (s : State) (t : Transmitter) (m1 : SourceNo) :
    (s.setTransmitter t).source m1 = s.source m1 := rfl

@[simp] theorem State.setTransmitter_bayConfig (s : State) (t : Transmitter) (c1 : BayNo) :
    (s.setTransmitter t).bayConfig c1 = s.bayConfig c1 := rfl

@[simp] theorem State.setTransmitter_bayCounters (s : State) (t : Transmitter) (c1 : BayNo) :
    (s.setTransmitter t).bayCounters c1 = s.bayCounters c1 := rfl

@[simp] theorem State.setTransmitter_mask (s : State) (t : Transmitter) (m1 : SourceNo) :
    (s.setTransmitter t).mask m1 = s.mask m1 := rfl

@[simp] theorem State.setTransmitter_liveCount (s : State) (t : Transmitter) (c1 : BayNo) :
    (s.setTransmitter t).liveCount c1 = s.liveCount c1 := rfl

/-! ## setHandler -/

@[simp] theorem State.setHandler_pending (s : State) (h : Handler) : (s.setHandler h).pending = s.pending := rfl

@[simp] theorem State.setHandler_bays (s : State) (h : Handler) : (s.setHandler h).bays = s.bays := rfl

@[simp] theorem State.setHandler_engine (s : State) (h : Handler) : (s.setHandler h).engine = s.engine := rfl

@[simp] theorem State.setHandler_jobs (s : State) (h : Handler) : (s.setHandler h).jobs = s.jobs := rfl

@[simp] theorem State.setHandler_lastServed (s : State) (h : Handler) : (s.setHandler h).lastServed = s.lastServed := rfl

@[simp] theorem State.setHandler_reporter (s : State) (h : Handler) : (s.setHandler h).reporter = s.reporter := rfl

@[simp] theorem State.setHandler_port (s : State) (h : Handler) : (s.setHandler h).port = s.port := rfl

@[simp] theorem State.setHandler_transmitter (s : State) (h : Handler) : (s.setHandler h).transmitter = s.transmitter := rfl

@[simp] theorem State.setHandler_config (s : State) (h : Handler) : (s.setHandler h).config = s.config := rfl

@[simp] theorem State.setHandler_counters (s : State) (h : Handler) : (s.setHandler h).counters = s.counters := rfl

@[simp] theorem State.setHandler_blink (s : State) (h : Handler) : (s.setHandler h).blink = s.blink := rfl

@[simp] theorem State.setHandler_handed (s : State) (h : Handler) : (s.setHandler h).handed = s.handed := rfl

@[simp] theorem State.setHandler_freeDraws (s : State) (h : Handler) : (s.setHandler h).freeDraws = s.freeDraws := rfl

@[simp] theorem State.setHandler_bay (s : State) (h : Handler) (c1 : BayNo) :
    (s.setHandler h).bay c1 = s.bay c1 := rfl

@[simp] theorem State.setHandler_slot (s : State) (h : Handler) (i1 : SlotNo) :
    (s.setHandler h).slot i1 = s.slot i1 := rfl

@[simp] theorem State.setHandler_queue (s : State) (h : Handler) (c1 : BayNo) :
    (s.setHandler h).queue c1 = s.queue c1 := rfl

@[simp] theorem State.setHandler_source (s : State) (h : Handler) (m1 : SourceNo) :
    (s.setHandler h).source m1 = s.source m1 := rfl

@[simp] theorem State.setHandler_bayConfig (s : State) (h : Handler) (c1 : BayNo) :
    (s.setHandler h).bayConfig c1 = s.bayConfig c1 := rfl

@[simp] theorem State.setHandler_bayCounters (s : State) (h : Handler) (c1 : BayNo) :
    (s.setHandler h).bayCounters c1 = s.bayCounters c1 := rfl

@[simp] theorem State.setHandler_mask (s : State) (h : Handler) (m1 : SourceNo) :
    (s.setHandler h).mask m1 = s.mask m1 := rfl

@[simp] theorem State.setHandler_liveCount (s : State) (h : Handler) (c1 : BayNo) :
    (s.setHandler h).liveCount c1 = s.liveCount c1 := rfl

/-! ## setPort -/

@[simp] theorem State.setPort_pending (s : State) (p : LinkPort) : (s.setPort p).pending = s.pending := rfl

@[simp] theorem State.setPort_bays (s : State) (p : LinkPort) : (s.setPort p).bays = s.bays := rfl

@[simp] theorem State.setPort_engine (s : State) (p : LinkPort) : (s.setPort p).engine = s.engine := rfl

@[simp] theorem State.setPort_jobs (s : State) (p : LinkPort) : (s.setPort p).jobs = s.jobs := rfl

@[simp] theorem State.setPort_lastServed (s : State) (p : LinkPort) : (s.setPort p).lastServed = s.lastServed := rfl

@[simp] theorem State.setPort_reporter (s : State) (p : LinkPort) : (s.setPort p).reporter = s.reporter := rfl

@[simp] theorem State.setPort_handler (s : State) (p : LinkPort) : (s.setPort p).handler = s.handler := rfl

@[simp] theorem State.setPort_transmitter (s : State) (p : LinkPort) : (s.setPort p).transmitter = s.transmitter := rfl

@[simp] theorem State.setPort_config (s : State) (p : LinkPort) : (s.setPort p).config = s.config := rfl

@[simp] theorem State.setPort_counters (s : State) (p : LinkPort) : (s.setPort p).counters = s.counters := rfl

@[simp] theorem State.setPort_blink (s : State) (p : LinkPort) : (s.setPort p).blink = s.blink := rfl

@[simp] theorem State.setPort_handed (s : State) (p : LinkPort) : (s.setPort p).handed = s.handed := rfl

@[simp] theorem State.setPort_freeDraws (s : State) (p : LinkPort) : (s.setPort p).freeDraws = s.freeDraws := rfl

@[simp] theorem State.setPort_bay (s : State) (p : LinkPort) (c1 : BayNo) :
    (s.setPort p).bay c1 = s.bay c1 := rfl

@[simp] theorem State.setPort_slot (s : State) (p : LinkPort) (i1 : SlotNo) :
    (s.setPort p).slot i1 = s.slot i1 := rfl

@[simp] theorem State.setPort_queue (s : State) (p : LinkPort) (c1 : BayNo) :
    (s.setPort p).queue c1 = s.queue c1 := rfl

@[simp] theorem State.setPort_source (s : State) (p : LinkPort) (m1 : SourceNo) :
    (s.setPort p).source m1 = s.source m1 := rfl

@[simp] theorem State.setPort_bayConfig (s : State) (p : LinkPort) (c1 : BayNo) :
    (s.setPort p).bayConfig c1 = s.bayConfig c1 := rfl

@[simp] theorem State.setPort_bayCounters (s : State) (p : LinkPort) (c1 : BayNo) :
    (s.setPort p).bayCounters c1 = s.bayCounters c1 := rfl

@[simp] theorem State.setPort_mask (s : State) (p : LinkPort) (m1 : SourceNo) :
    (s.setPort p).mask m1 = s.mask m1 := rfl

@[simp] theorem State.setPort_liveCount (s : State) (p : LinkPort) (c1 : BayNo) :
    (s.setPort p).liveCount c1 = s.liveCount c1 := rfl

/-! ## setEngine -/

@[simp] theorem State.setEngine_pending (s : State) (e : Engine) : (s.setEngine e).pending = s.pending := rfl

@[simp] theorem State.setEngine_bays (s : State) (e : Engine) : (s.setEngine e).bays = s.bays := rfl

@[simp] theorem State.setEngine_jobs (s : State) (e : Engine) : (s.setEngine e).jobs = s.jobs := rfl

@[simp] theorem State.setEngine_lastServed (s : State) (e : Engine) : (s.setEngine e).lastServed = s.lastServed := rfl

@[simp] theorem State.setEngine_reporter (s : State) (e : Engine) : (s.setEngine e).reporter = s.reporter := rfl

@[simp] theorem State.setEngine_handler (s : State) (e : Engine) : (s.setEngine e).handler = s.handler := rfl

@[simp] theorem State.setEngine_port (s : State) (e : Engine) : (s.setEngine e).port = s.port := rfl

@[simp] theorem State.setEngine_transmitter (s : State) (e : Engine) : (s.setEngine e).transmitter = s.transmitter := rfl

@[simp] theorem State.setEngine_config (s : State) (e : Engine) : (s.setEngine e).config = s.config := rfl

@[simp] theorem State.setEngine_counters (s : State) (e : Engine) : (s.setEngine e).counters = s.counters := rfl

@[simp] theorem State.setEngine_blink (s : State) (e : Engine) : (s.setEngine e).blink = s.blink := rfl

@[simp] theorem State.setEngine_handed (s : State) (e : Engine) : (s.setEngine e).handed = s.handed := rfl

@[simp] theorem State.setEngine_freeDraws (s : State) (e : Engine) : (s.setEngine e).freeDraws = s.freeDraws := rfl

@[simp] theorem State.setEngine_bay (s : State) (e : Engine) (c1 : BayNo) :
    (s.setEngine e).bay c1 = s.bay c1 := rfl

@[simp] theorem State.setEngine_slot (s : State) (e : Engine) (i1 : SlotNo) :
    (s.setEngine e).slot i1 = s.slot i1 := rfl

@[simp] theorem State.setEngine_queue (s : State) (e : Engine) (c1 : BayNo) :
    (s.setEngine e).queue c1 = s.queue c1 := rfl

@[simp] theorem State.setEngine_source (s : State) (e : Engine) (m1 : SourceNo) :
    (s.setEngine e).source m1 = s.source m1 := rfl

@[simp] theorem State.setEngine_bayConfig (s : State) (e : Engine) (c1 : BayNo) :
    (s.setEngine e).bayConfig c1 = s.bayConfig c1 := rfl

@[simp] theorem State.setEngine_bayCounters (s : State) (e : Engine) (c1 : BayNo) :
    (s.setEngine e).bayCounters c1 = s.bayCounters c1 := rfl

@[simp] theorem State.setEngine_mask (s : State) (e : Engine) (m1 : SourceNo) :
    (s.setEngine e).mask m1 = s.mask m1 := rfl

@[simp] theorem State.setEngine_liveCount (s : State) (e : Engine) (c1 : BayNo) :
    (s.setEngine e).liveCount c1 = s.liveCount c1 := rfl

/-! ## setHanded -/

@[simp] theorem State.setHanded_pending (s : State) (l : List Report) : (s.setHanded l).pending = s.pending := rfl

@[simp] theorem State.setHanded_bays (s : State) (l : List Report) : (s.setHanded l).bays = s.bays := rfl

@[simp] theorem State.setHanded_engine (s : State) (l : List Report) : (s.setHanded l).engine = s.engine := rfl

@[simp] theorem State.setHanded_jobs (s : State) (l : List Report) : (s.setHanded l).jobs = s.jobs := rfl

@[simp] theorem State.setHanded_lastServed (s : State) (l : List Report) : (s.setHanded l).lastServed = s.lastServed := rfl

@[simp] theorem State.setHanded_reporter (s : State) (l : List Report) : (s.setHanded l).reporter = s.reporter := rfl

@[simp] theorem State.setHanded_handler (s : State) (l : List Report) : (s.setHanded l).handler = s.handler := rfl

@[simp] theorem State.setHanded_port (s : State) (l : List Report) : (s.setHanded l).port = s.port := rfl

@[simp] theorem State.setHanded_transmitter (s : State) (l : List Report) : (s.setHanded l).transmitter = s.transmitter := rfl

@[simp] theorem State.setHanded_config (s : State) (l : List Report) : (s.setHanded l).config = s.config := rfl

@[simp] theorem State.setHanded_counters (s : State) (l : List Report) : (s.setHanded l).counters = s.counters := rfl

@[simp] theorem State.setHanded_blink (s : State) (l : List Report) : (s.setHanded l).blink = s.blink := rfl

@[simp] theorem State.setHanded_freeDraws (s : State) (l : List Report) : (s.setHanded l).freeDraws = s.freeDraws := rfl

@[simp] theorem State.setHanded_bay (s : State) (l : List Report) (c1 : BayNo) :
    (s.setHanded l).bay c1 = s.bay c1 := rfl

@[simp] theorem State.setHanded_slot (s : State) (l : List Report) (i1 : SlotNo) :
    (s.setHanded l).slot i1 = s.slot i1 := rfl

@[simp] theorem State.setHanded_queue (s : State) (l : List Report) (c1 : BayNo) :
    (s.setHanded l).queue c1 = s.queue c1 := rfl

@[simp] theorem State.setHanded_source (s : State) (l : List Report) (m1 : SourceNo) :
    (s.setHanded l).source m1 = s.source m1 := rfl

@[simp] theorem State.setHanded_bayConfig (s : State) (l : List Report) (c1 : BayNo) :
    (s.setHanded l).bayConfig c1 = s.bayConfig c1 := rfl

@[simp] theorem State.setHanded_bayCounters (s : State) (l : List Report) (c1 : BayNo) :
    (s.setHanded l).bayCounters c1 = s.bayCounters c1 := rfl

@[simp] theorem State.setHanded_mask (s : State) (l : List Report) (m1 : SourceNo) :
    (s.setHanded l).mask m1 = s.mask m1 := rfl

@[simp] theorem State.setHanded_liveCount (s : State) (l : List Report) (c1 : BayNo) :
    (s.setHanded l).liveCount c1 = s.liveCount c1 := rfl

/-! ## setServed -/

@[simp] theorem State.setServed_pending (s : State) (b : BayNo) : (s.setServed b).pending = s.pending := rfl

@[simp] theorem State.setServed_bays (s : State) (b : BayNo) : (s.setServed b).bays = s.bays := rfl

@[simp] theorem State.setServed_engine (s : State) (b : BayNo) : (s.setServed b).engine = s.engine := rfl

@[simp] theorem State.setServed_jobs (s : State) (b : BayNo) : (s.setServed b).jobs = s.jobs := rfl

@[simp] theorem State.setServed_reporter (s : State) (b : BayNo) : (s.setServed b).reporter = s.reporter := rfl

@[simp] theorem State.setServed_handler (s : State) (b : BayNo) : (s.setServed b).handler = s.handler := rfl

@[simp] theorem State.setServed_port (s : State) (b : BayNo) : (s.setServed b).port = s.port := rfl

@[simp] theorem State.setServed_transmitter (s : State) (b : BayNo) : (s.setServed b).transmitter = s.transmitter := rfl

@[simp] theorem State.setServed_config (s : State) (b : BayNo) : (s.setServed b).config = s.config := rfl

@[simp] theorem State.setServed_counters (s : State) (b : BayNo) : (s.setServed b).counters = s.counters := rfl

@[simp] theorem State.setServed_blink (s : State) (b : BayNo) : (s.setServed b).blink = s.blink := rfl

@[simp] theorem State.setServed_handed (s : State) (b : BayNo) : (s.setServed b).handed = s.handed := rfl

@[simp] theorem State.setServed_freeDraws (s : State) (b : BayNo) : (s.setServed b).freeDraws = s.freeDraws := rfl

@[simp] theorem State.setServed_bay (s : State) (b : BayNo) (c1 : BayNo) :
    (s.setServed b).bay c1 = s.bay c1 := rfl

@[simp] theorem State.setServed_slot (s : State) (b : BayNo) (i1 : SlotNo) :
    (s.setServed b).slot i1 = s.slot i1 := rfl

@[simp] theorem State.setServed_queue (s : State) (b : BayNo) (c1 : BayNo) :
    (s.setServed b).queue c1 = s.queue c1 := rfl

@[simp] theorem State.setServed_source (s : State) (b : BayNo) (m1 : SourceNo) :
    (s.setServed b).source m1 = s.source m1 := rfl

@[simp] theorem State.setServed_bayConfig (s : State) (b : BayNo) (c1 : BayNo) :
    (s.setServed b).bayConfig c1 = s.bayConfig c1 := rfl

@[simp] theorem State.setServed_bayCounters (s : State) (b : BayNo) (c1 : BayNo) :
    (s.setServed b).bayCounters c1 = s.bayCounters c1 := rfl

@[simp] theorem State.setServed_mask (s : State) (b : BayNo) (m1 : SourceNo) :
    (s.setServed b).mask m1 = s.mask m1 := rfl

@[simp] theorem State.setServed_liveCount (s : State) (b : BayNo) (c1 : BayNo) :
    (s.setServed b).liveCount c1 = s.liveCount c1 := rfl

/-! ## setDraws -/

@[simp] theorem State.setDraws_pending (s : State) (n : Nat) : (s.setDraws n).pending = s.pending := rfl

@[simp] theorem State.setDraws_bays (s : State) (n : Nat) : (s.setDraws n).bays = s.bays := rfl

@[simp] theorem State.setDraws_engine (s : State) (n : Nat) : (s.setDraws n).engine = s.engine := rfl

@[simp] theorem State.setDraws_jobs (s : State) (n : Nat) : (s.setDraws n).jobs = s.jobs := rfl

@[simp] theorem State.setDraws_lastServed (s : State) (n : Nat) : (s.setDraws n).lastServed = s.lastServed := rfl

@[simp] theorem State.setDraws_reporter (s : State) (n : Nat) : (s.setDraws n).reporter = s.reporter := rfl

@[simp] theorem State.setDraws_handler (s : State) (n : Nat) : (s.setDraws n).handler = s.handler := rfl

@[simp] theorem State.setDraws_port (s : State) (n : Nat) : (s.setDraws n).port = s.port := rfl

@[simp] theorem State.setDraws_transmitter (s : State) (n : Nat) : (s.setDraws n).transmitter = s.transmitter := rfl

@[simp] theorem State.setDraws_config (s : State) (n : Nat) : (s.setDraws n).config = s.config := rfl

@[simp] theorem State.setDraws_counters (s : State) (n : Nat) : (s.setDraws n).counters = s.counters := rfl

@[simp] theorem State.setDraws_blink (s : State) (n : Nat) : (s.setDraws n).blink = s.blink := rfl

@[simp] theorem State.setDraws_handed (s : State) (n : Nat) : (s.setDraws n).handed = s.handed := rfl

@[simp] theorem State.setDraws_bay (s : State) (n : Nat) (c1 : BayNo) :
    (s.setDraws n).bay c1 = s.bay c1 := rfl

@[simp] theorem State.setDraws_slot (s : State) (n : Nat) (i1 : SlotNo) :
    (s.setDraws n).slot i1 = s.slot i1 := rfl

@[simp] theorem State.setDraws_queue (s : State) (n : Nat) (c1 : BayNo) :
    (s.setDraws n).queue c1 = s.queue c1 := rfl

@[simp] theorem State.setDraws_source (s : State) (n : Nat) (m1 : SourceNo) :
    (s.setDraws n).source m1 = s.source m1 := rfl

@[simp] theorem State.setDraws_bayConfig (s : State) (n : Nat) (c1 : BayNo) :
    (s.setDraws n).bayConfig c1 = s.bayConfig c1 := rfl

@[simp] theorem State.setDraws_bayCounters (s : State) (n : Nat) (c1 : BayNo) :
    (s.setDraws n).bayCounters c1 = s.bayCounters c1 := rfl

@[simp] theorem State.setDraws_mask (s : State) (n : Nat) (m1 : SourceNo) :
    (s.setDraws n).mask m1 = s.mask m1 := rfl

@[simp] theorem State.setDraws_liveCount (s : State) (n : Nat) (c1 : BayNo) :
    (s.setDraws n).liveCount c1 = s.liveCount c1 := rfl

/-! ## setJobs -/

@[simp] theorem State.setJobs_pending (s : State) (j : JobTable) : (s.setJobs j).pending = s.pending := rfl

@[simp] theorem State.setJobs_bays (s : State) (j : JobTable) : (s.setJobs j).bays = s.bays := rfl

@[simp] theorem State.setJobs_engine (s : State) (j : JobTable) : (s.setJobs j).engine = s.engine := rfl

@[simp] theorem State.setJobs_lastServed (s : State) (j : JobTable) : (s.setJobs j).lastServed = s.lastServed := rfl

@[simp] theorem State.setJobs_reporter (s : State) (j : JobTable) : (s.setJobs j).reporter = s.reporter := rfl

@[simp] theorem State.setJobs_handler (s : State) (j : JobTable) : (s.setJobs j).handler = s.handler := rfl

@[simp] theorem State.setJobs_port (s : State) (j : JobTable) : (s.setJobs j).port = s.port := rfl

@[simp] theorem State.setJobs_transmitter (s : State) (j : JobTable) : (s.setJobs j).transmitter = s.transmitter := rfl

@[simp] theorem State.setJobs_config (s : State) (j : JobTable) : (s.setJobs j).config = s.config := rfl

@[simp] theorem State.setJobs_counters (s : State) (j : JobTable) : (s.setJobs j).counters = s.counters := rfl

@[simp] theorem State.setJobs_blink (s : State) (j : JobTable) : (s.setJobs j).blink = s.blink := rfl

@[simp] theorem State.setJobs_handed (s : State) (j : JobTable) : (s.setJobs j).handed = s.handed := rfl

@[simp] theorem State.setJobs_freeDraws (s : State) (j : JobTable) : (s.setJobs j).freeDraws = s.freeDraws := rfl

@[simp] theorem State.setJobs_bay (s : State) (j : JobTable) (c1 : BayNo) :
    (s.setJobs j).bay c1 = s.bay c1 := rfl

@[simp] theorem State.setJobs_source (s : State) (j : JobTable) (m1 : SourceNo) :
    (s.setJobs j).source m1 = s.source m1 := rfl

@[simp] theorem State.setJobs_bayConfig (s : State) (j : JobTable) (c1 : BayNo) :
    (s.setJobs j).bayConfig c1 = s.bayConfig c1 := rfl

@[simp] theorem State.setJobs_bayCounters (s : State) (j : JobTable) (c1 : BayNo) :
    (s.setJobs j).bayCounters c1 = s.bayCounters c1 := rfl

@[simp] theorem State.setJobs_mask (s : State) (j : JobTable) (m1 : SourceNo) :
    (s.setJobs j).mask m1 = s.mask m1 := rfl

/-! ## setReporter -/

@[simp] theorem State.setReporter_pending (s : State) (r : Reporter) : (s.setReporter r).pending = s.pending := rfl

@[simp] theorem State.setReporter_bays (s : State) (r : Reporter) : (s.setReporter r).bays = s.bays := rfl

@[simp] theorem State.setReporter_engine (s : State) (r : Reporter) : (s.setReporter r).engine = s.engine := rfl

@[simp] theorem State.setReporter_jobs (s : State) (r : Reporter) : (s.setReporter r).jobs = s.jobs := rfl

@[simp] theorem State.setReporter_lastServed (s : State) (r : Reporter) : (s.setReporter r).lastServed = s.lastServed := rfl

@[simp] theorem State.setReporter_handler (s : State) (r : Reporter) : (s.setReporter r).handler = s.handler := rfl

@[simp] theorem State.setReporter_port (s : State) (r : Reporter) : (s.setReporter r).port = s.port := rfl

@[simp] theorem State.setReporter_transmitter (s : State) (r : Reporter) : (s.setReporter r).transmitter = s.transmitter := rfl

@[simp] theorem State.setReporter_config (s : State) (r : Reporter) : (s.setReporter r).config = s.config := rfl

@[simp] theorem State.setReporter_counters (s : State) (r : Reporter) : (s.setReporter r).counters = s.counters := rfl

@[simp] theorem State.setReporter_blink (s : State) (r : Reporter) : (s.setReporter r).blink = s.blink := rfl

@[simp] theorem State.setReporter_handed (s : State) (r : Reporter) : (s.setReporter r).handed = s.handed := rfl

@[simp] theorem State.setReporter_freeDraws (s : State) (r : Reporter) : (s.setReporter r).freeDraws = s.freeDraws := rfl

@[simp] theorem State.setReporter_bay (s : State) (r : Reporter) (c1 : BayNo) :
    (s.setReporter r).bay c1 = s.bay c1 := rfl

@[simp] theorem State.setReporter_slot (s : State) (r : Reporter) (i1 : SlotNo) :
    (s.setReporter r).slot i1 = s.slot i1 := rfl

@[simp] theorem State.setReporter_queue (s : State) (r : Reporter) (c1 : BayNo) :
    (s.setReporter r).queue c1 = s.queue c1 := rfl

@[simp] theorem State.setReporter_bayConfig (s : State) (r : Reporter) (c1 : BayNo) :
    (s.setReporter r).bayConfig c1 = s.bayConfig c1 := rfl

@[simp] theorem State.setReporter_bayCounters (s : State) (r : Reporter) (c1 : BayNo) :
    (s.setReporter r).bayCounters c1 = s.bayCounters c1 := rfl

@[simp] theorem State.setReporter_mask (s : State) (r : Reporter) (m1 : SourceNo) :
    (s.setReporter r).mask m1 = s.mask m1 := rfl

@[simp] theorem State.setReporter_liveCount (s : State) (r : Reporter) (c1 : BayNo) :
    (s.setReporter r).liveCount c1 = s.liveCount c1 := rfl

/-! ## setLinkConfig -/

@[simp] theorem State.setLinkConfig_pending (s : State) (c : LinkConfig) : (s.setLinkConfig c).pending = s.pending := rfl

@[simp] theorem State.setLinkConfig_bays (s : State) (c : LinkConfig) : (s.setLinkConfig c).bays = s.bays := rfl

@[simp] theorem State.setLinkConfig_engine (s : State) (c : LinkConfig) : (s.setLinkConfig c).engine = s.engine := rfl

@[simp] theorem State.setLinkConfig_jobs (s : State) (c : LinkConfig) : (s.setLinkConfig c).jobs = s.jobs := rfl

@[simp] theorem State.setLinkConfig_lastServed (s : State) (c : LinkConfig) : (s.setLinkConfig c).lastServed = s.lastServed := rfl

@[simp] theorem State.setLinkConfig_reporter (s : State) (c : LinkConfig) : (s.setLinkConfig c).reporter = s.reporter := rfl

@[simp] theorem State.setLinkConfig_handler (s : State) (c : LinkConfig) : (s.setLinkConfig c).handler = s.handler := rfl

@[simp] theorem State.setLinkConfig_port (s : State) (c : LinkConfig) : (s.setLinkConfig c).port = s.port := rfl

@[simp] theorem State.setLinkConfig_transmitter (s : State) (c : LinkConfig) : (s.setLinkConfig c).transmitter = s.transmitter := rfl

@[simp] theorem State.setLinkConfig_counters (s : State) (c : LinkConfig) : (s.setLinkConfig c).counters = s.counters := rfl

@[simp] theorem State.setLinkConfig_blink (s : State) (c : LinkConfig) : (s.setLinkConfig c).blink = s.blink := rfl

@[simp] theorem State.setLinkConfig_handed (s : State) (c : LinkConfig) : (s.setLinkConfig c).handed = s.handed := rfl

@[simp] theorem State.setLinkConfig_freeDraws (s : State) (c : LinkConfig) : (s.setLinkConfig c).freeDraws = s.freeDraws := rfl

@[simp] theorem State.setLinkConfig_bay (s : State) (c : LinkConfig) (c1 : BayNo) :
    (s.setLinkConfig c).bay c1 = s.bay c1 := rfl

@[simp] theorem State.setLinkConfig_slot (s : State) (c : LinkConfig) (i1 : SlotNo) :
    (s.setLinkConfig c).slot i1 = s.slot i1 := rfl

@[simp] theorem State.setLinkConfig_queue (s : State) (c : LinkConfig) (c1 : BayNo) :
    (s.setLinkConfig c).queue c1 = s.queue c1 := rfl

@[simp] theorem State.setLinkConfig_source (s : State) (c : LinkConfig) (m1 : SourceNo) :
    (s.setLinkConfig c).source m1 = s.source m1 := rfl

@[simp] theorem State.setLinkConfig_bayConfig (s : State) (c : LinkConfig) (c1 : BayNo) :
    (s.setLinkConfig c).bayConfig c1 = s.bayConfig c1 := rfl

@[simp] theorem State.setLinkConfig_bayCounters (s : State) (c : LinkConfig) (c1 : BayNo) :
    (s.setLinkConfig c).bayCounters c1 = s.bayCounters c1 := rfl

@[simp] theorem State.setLinkConfig_mask (s : State) (c : LinkConfig) (m1 : SourceNo) :
    (s.setLinkConfig c).mask m1 = s.mask m1 := rfl

@[simp] theorem State.setLinkConfig_liveCount (s : State) (c : LinkConfig) (c1 : BayNo) :
    (s.setLinkConfig c).liveCount c1 = s.liveCount c1 := rfl

/-! ## setBlink -/

@[simp] theorem State.setBlink_pending (s : State) (k : Blink) : (s.setBlink k).pending = s.pending := rfl

@[simp] theorem State.setBlink_bays (s : State) (k : Blink) : (s.setBlink k).bays = s.bays := rfl

@[simp] theorem State.setBlink_engine (s : State) (k : Blink) : (s.setBlink k).engine = s.engine := rfl

@[simp] theorem State.setBlink_jobs (s : State) (k : Blink) : (s.setBlink k).jobs = s.jobs := rfl

@[simp] theorem State.setBlink_lastServed (s : State) (k : Blink) : (s.setBlink k).lastServed = s.lastServed := rfl

@[simp] theorem State.setBlink_reporter (s : State) (k : Blink) : (s.setBlink k).reporter = s.reporter := rfl

@[simp] theorem State.setBlink_handler (s : State) (k : Blink) : (s.setBlink k).handler = s.handler := rfl

@[simp] theorem State.setBlink_port (s : State) (k : Blink) : (s.setBlink k).port = s.port := rfl

@[simp] theorem State.setBlink_transmitter (s : State) (k : Blink) : (s.setBlink k).transmitter = s.transmitter := rfl

@[simp] theorem State.setBlink_config (s : State) (k : Blink) : (s.setBlink k).config = s.config := rfl

@[simp] theorem State.setBlink_counters (s : State) (k : Blink) : (s.setBlink k).counters = s.counters := rfl

@[simp] theorem State.setBlink_handed (s : State) (k : Blink) : (s.setBlink k).handed = s.handed := rfl

@[simp] theorem State.setBlink_freeDraws (s : State) (k : Blink) : (s.setBlink k).freeDraws = s.freeDraws := rfl

@[simp] theorem State.setBlink_bay (s : State) (k : Blink) (c1 : BayNo) :
    (s.setBlink k).bay c1 = s.bay c1 := rfl

@[simp] theorem State.setBlink_slot (s : State) (k : Blink) (i1 : SlotNo) :
    (s.setBlink k).slot i1 = s.slot i1 := rfl

@[simp] theorem State.setBlink_queue (s : State) (k : Blink) (c1 : BayNo) :
    (s.setBlink k).queue c1 = s.queue c1 := rfl

@[simp] theorem State.setBlink_source (s : State) (k : Blink) (m1 : SourceNo) :
    (s.setBlink k).source m1 = s.source m1 := rfl

@[simp] theorem State.setBlink_bayConfig (s : State) (k : Blink) (c1 : BayNo) :
    (s.setBlink k).bayConfig c1 = s.bayConfig c1 := rfl

@[simp] theorem State.setBlink_bayCounters (s : State) (k : Blink) (c1 : BayNo) :
    (s.setBlink k).bayCounters c1 = s.bayCounters c1 := rfl

@[simp] theorem State.setBlink_mask (s : State) (k : Blink) (m1 : SourceNo) :
    (s.setBlink k).mask m1 = s.mask m1 := rfl

@[simp] theorem State.setBlink_liveCount (s : State) (k : Blink) (c1 : BayNo) :
    (s.setBlink k).liveCount c1 = s.liveCount c1 := rfl

/-! ## Reading back what was written -/

theorem State.setBay_bay (s : State) (b c : BayNo) (r : Bay) :
    (s.setBay b r).bay c = if c = b then r else s.bay c := by
  simp [State.setBay, State.bay, Vector.getElem_set, Fin.ext_iff, eq_comm]

@[simp] theorem State.setBay_bay_self (s : State) (b : BayNo) (r : Bay) : (s.setBay b r).bay b = r := by
  simp [State.setBay_bay]

@[simp] theorem State.setBay_bay_ne (s : State) (b c : BayNo) (r : Bay) (h : c ≠ b) :
    (s.setBay b r).bay c = s.bay c := by
  simp [State.setBay_bay, h]

theorem State.setSlot_slot (s : State) (i j : SlotNo) (k : Slot) :
    (s.setSlot j k).slot i = if i = j then k else s.slot i := by
  simp [State.setSlot, State.slot, Vector.getElem_set, Fin.ext_iff, eq_comm]

@[simp] theorem State.setSlot_slot_self (s : State) (j : SlotNo) (k : Slot) : (s.setSlot j k).slot j = k := by
  simp [State.setSlot_slot]

@[simp] theorem State.setSlot_slot_ne (s : State) (i j : SlotNo) (k : Slot) (h : i ≠ j) :
    (s.setSlot j k).slot i = s.slot i := by
  simp [State.setSlot_slot, h]

theorem State.setQueue_queue (s : State) (b c : BayNo) (q : List SlotNo) :
    (s.setQueue b q).queue c = if c = b then q else s.queue c := by
  simp [State.setQueue, State.queue, Vector.getElem_set, Fin.ext_iff, eq_comm]

@[simp] theorem State.setQueue_queue_self (s : State) (b : BayNo) (q : List SlotNo) :
    (s.setQueue b q).queue b = q := by
  simp [State.setQueue_queue]

@[simp] theorem State.setQueue_queue_ne (s : State) (b c : BayNo) (q : List SlotNo) (h : c ≠ b) :
    (s.setQueue b q).queue c = s.queue c := by
  simp [State.setQueue_queue, h]

theorem State.setSource_source (s : State) (n m : SourceNo) (r : SourceRecord) :
    (s.setSource n r).source m = if m = n then r else s.source m := by
  simp [State.setSource, State.source, Vector.getElem_set, Fin.ext_iff, eq_comm]

@[simp] theorem State.setSource_source_self (s : State) (n : SourceNo) (r : SourceRecord) :
    (s.setSource n r).source n = r := by
  simp [State.setSource_source]

@[simp] theorem State.setSource_source_ne (s : State) (n m : SourceNo) (r : SourceRecord) (h : m ≠ n) :
    (s.setSource n r).source m = s.source m := by
  simp [State.setSource_source, h]

theorem State.setBayConfig_bayConfig (s : State) (b c : BayNo) (x : BayConfig) :
    (s.setBayConfig b x).bayConfig c = if c = b then x else s.bayConfig c := by
  simp [State.setBayConfig, State.bayConfig, Vector.getElem_set, Fin.ext_iff, eq_comm]

theorem State.setBayCounters_bayCounters (s : State) (b c : BayNo) (x : BayCounters) :
    (s.setBayCounters b x).bayCounters c = if c = b then x else s.bayCounters c := by
  simp [State.setBayCounters, State.bayCounters, Vector.getElem_set, Fin.ext_iff, eq_comm]

@[simp] theorem State.setBayCounters_bayCounters_self (s : State) (b : BayNo) (x : BayCounters) :
    (s.setBayCounters b x).bayCounters b = x := by
  simp [State.setBayCounters_bayCounters]

@[simp] theorem State.hand_handed (s : State) (r : Report) : (s.hand r).handed = s.handed ++ [r] := rfl

@[simp] theorem State.handAll_handed (s : State) (rs : List Report) : (s.handAll rs).handed = s.handed ++ rs := rfl

@[simp] theorem State.setTransmitter_transmitter (s : State) (t : Transmitter) :
    (s.setTransmitter t).transmitter = t := rfl

@[simp] theorem State.setHandler_handler (s : State) (h : Handler) : (s.setHandler h).handler = h := rfl

@[simp] theorem State.setPort_port (s : State) (p : LinkPort) : (s.setPort p).port = p := rfl

@[simp] theorem State.setEngine_engine (s : State) (e : Engine) : (s.setEngine e).engine = e := rfl

@[simp] theorem State.setHanded_handed (s : State) (l : List Report) : (s.setHanded l).handed = l := rfl

@[simp] theorem State.setServed_lastServed (s : State) (b : BayNo) : (s.setServed b).lastServed = b := rfl

@[simp] theorem State.setDraws_freeDraws (s : State) (n : Nat) : (s.setDraws n).freeDraws = n := rfl

@[simp] theorem State.setJobs_jobs (s : State) (j : JobTable) : (s.setJobs j).jobs = j := rfl

@[simp] theorem State.setReporter_reporter (s : State) (r : Reporter) : (s.setReporter r).reporter = r := rfl

@[simp] theorem State.setLinkConfig_link (s : State) (c : LinkConfig) : (s.setLinkConfig c).config.link = c := rfl

@[simp] theorem State.setBayConfig_link (s : State) (b : BayNo) (c : BayConfig) :
    (s.setBayConfig b c).config.link = s.config.link := rfl

@[simp] theorem State.setBlink_blink (s : State) (k : Blink) : (s.setBlink k).blink = k := rfl

@[simp] theorem State.setPool_pool (s : State) (m : List Host.Cell) : (s.setPool m).jobs.pool = m := rfl

@[simp] theorem State.setSlot_pool (s : State) (j : SlotNo) (k : Slot) : (s.setSlot j k).jobs.pool = s.jobs.pool := rfl

@[simp] theorem State.setQueue_pool (s : State) (b : BayNo) (q : List SlotNo) :
    (s.setQueue b q).jobs.pool = s.jobs.pool := rfl

@[simp] theorem State.setDeviceCounters_device (s : State) (c : DeviceCounters) :
    (s.setDeviceCounters c).counters.device = c := rfl

@[simp] theorem State.setBayCounters_device (s : State) (b : BayNo) (c : BayCounters) :
    (s.setBayCounters b c).counters.device = s.counters.device := rfl

@[simp] theorem State.setSource_cause (s : State) (n : SourceNo) (r : SourceRecord) :
    (s.setSource n r).reporter.resetCause = s.reporter.resetCause := rfl

/-! ## Two states with equal parts are equal -/

/-- Bays are told apart by reading them. -/
theorem State.bays_ext (s t : State) (h : ∀ b, s.bay b = t.bay b) : s.bays = t.bays := by
  apply Vector.ext
  intro i hi
  exact h ⟨i, hi⟩

theorem State.slots_ext (s t : State) (h : ∀ j, s.slot j = t.slot j) : s.jobs.slots = t.jobs.slots := by
  apply Vector.ext
  intro i hi
  exact h ⟨i, hi⟩

theorem State.queues_ext (s t : State) (h : ∀ b, s.queue b = t.queue b) : s.jobs.queues = t.jobs.queues := by
  apply Vector.ext
  intro i hi
  exact h ⟨i, hi⟩

theorem State.sources_ext (s t : State) (h : ∀ n, s.source n = t.source n) :
    s.reporter.sources = t.reporter.sources := by
  apply Vector.ext
  intro i hi
  exact h ⟨i, hi⟩

end Sys2Proof.Machine
end

