-- ==== Sys2Proof/Laws/Ops.lean ====
section
/-! SUPPORT. What the shared operations can do: for each one the parts of the state it leaves as they were (its frame),
and what it writes, said once. -/

namespace Sys2Proof.Machine

/-! ## Raises and transitions of a bay record -/

/-- A raise changes only what is on its way. -/
@[simp] theorem State.raise_frame (s : State) (n : SourceNo) (bits : Byte) :
    (s.raise n bits).pending = s.pending ∧ (s.raise n bits).bays = s.bays ∧ (s.raise n bits).engine = s.engine ∧
    (s.raise n bits).jobs = s.jobs ∧ (s.raise n bits).lastServed = s.lastServed ∧
    (s.raise n bits).reporter = s.reporter ∧ (s.raise n bits).handler = s.handler ∧
    (s.raise n bits).port = s.port ∧ (s.raise n bits).transmitter = s.transmitter ∧
    (s.raise n bits).config = s.config ∧ (s.raise n bits).counters = s.counters ∧
    (s.raise n bits).blink = s.blink ∧ (s.raise n bits).freeDraws = s.freeDraws ∧
    (∀ c, (s.raise n bits).bay c = s.bay c) ∧ (∀ i, (s.raise n bits).slot i = s.slot i) ∧
    (∀ c, (s.raise n bits).queue c = s.queue c) ∧ (∀ m, (s.raise n bits).source m = s.source m) ∧
    (∀ c, (s.raise n bits).bayConfig c = s.bayConfig c) ∧ (∀ c, (s.raise n bits).bayCounters c = s.bayCounters c) ∧
    (∀ m, (s.raise n bits).mask m = s.mask m) ∧ (∀ c, (s.raise n bits).liveCount c = s.liveCount c) := by
  unfold State.raise; split <;> simp

/-- A raise of some bits joins the reports on their way. -/
@[simp] theorem State.raise_handed (s : State) (n : SourceNo) (bits : Byte) :
    (s.raise n bits).handed = s.handed ++ if bits = 0 then [] else [.raise n bits] := by
  unfold State.raise; split <;> simp [*]

/-- A transition of a bay record changes that bay and what is on its way. -/
@[simp] theorem State.actBay_frame (s : State) (b : BayNo) (f : Bay → Bay × Byte) :
    (s.actBay b f).pending = s.pending ∧ (s.actBay b f).engine = s.engine ∧ (s.actBay b f).jobs = s.jobs ∧
    (s.actBay b f).lastServed = s.lastServed ∧ (s.actBay b f).reporter = s.reporter ∧
    (s.actBay b f).handler = s.handler ∧ (s.actBay b f).port = s.port ∧
    (s.actBay b f).transmitter = s.transmitter ∧ (s.actBay b f).config = s.config ∧
    (s.actBay b f).counters = s.counters ∧ (s.actBay b f).blink = s.blink ∧
    (s.actBay b f).freeDraws = s.freeDraws ∧ (∀ i, (s.actBay b f).slot i = s.slot i) ∧
    (∀ c, (s.actBay b f).queue c = s.queue c) ∧ (∀ m, (s.actBay b f).source m = s.source m) ∧
    (∀ c, (s.actBay b f).bayConfig c = s.bayConfig c) ∧ (∀ c, (s.actBay b f).bayCounters c = s.bayCounters c) ∧
    (∀ m, (s.actBay b f).mask m = s.mask m) ∧ (∀ c, (s.actBay b f).liveCount c = s.liveCount c) := by
  simp [State.actBay]

@[simp] theorem State.actBay_bay_self (s : State) (b : BayNo) (f : Bay → Bay × Byte) :
    (s.actBay b f).bay b = (f (s.bay b)).1 := by
  simp [State.actBay]

@[simp] theorem State.actBay_bay_ne (s : State) (b c : BayNo) (f : Bay → Bay × Byte) (h : c ≠ b) :
    (s.actBay b f).bay c = s.bay c := by
  simp [State.actBay, h]

@[simp] theorem State.actBay_handed (s : State) (b : BayNo) (f : Bay → Bay × Byte) :
    (s.actBay b f).handed =
      s.handed ++ if (f (s.bay b)).2 = 0 then [] else [.raise (baySource b) (f (s.bay b)).2] := by
  simp [State.actBay]

/-! ## Taking a report -/

/-- The report taken is the oldest that the selector accepts. -/
theorem takeFirst_append {α : Type} (sel : Report → Option α) (pre post : List Report) (r : Report) (a : α)
    (hr : sel r = some a) (hpre : ∀ x ∈ pre, sel x = none) :
    takeFirst sel (pre ++ r :: post) = some (a, pre ++ post) := by
  induction pre with
  | nil => simp [takeFirst, hr]
  | cons x t ih =>
    have hx : sel x = none := hpre x (by simp)
    have ht : ∀ y ∈ t, sel y = none := fun y hy => hpre y (by simp [hy])
    simp [takeFirst, hx, ih ht]

/-- With no report that the selector accepts, nothing is taken. -/
theorem takeFirst_none {α : Type} (sel : Report → Option α) (l : List Report) (h : ∀ x ∈ l, sel x = none) :
    takeFirst sel l = none := by
  induction l with
  | nil => rfl
  | cons x t ih => simp [takeFirst, h x (by simp), ih fun y hy => h y (by simp [hy])]

/-- A receiver acts on the oldest report meant for it, which is gone from those on their way. -/
theorem State.takeReport_oldest {α : Type} (s : State) (sel : Report → Option α) (act : α → State → State)
    (pre post : List Report) (r : Report) (a : α) (hs : s.handed = pre ++ r :: post) (hr : sel r = some a)
    (hpre : ∀ x ∈ pre, sel x = none) :
    s.takeReport sel act = act a (s.setHanded (pre ++ post)) := by
  simp [State.takeReport, hs, takeFirst_append sel pre post r a hr hpre]

theorem State.takeReport_none {α : Type} (s : State) (sel : Report → Option α) (act : α → State → State)
    (h : ∀ x ∈ s.handed, sel x = none) : s.takeReport sel act = s := by
  simp [State.takeReport, takeFirst_none sel s.handed h]

/-! ## Events and notices -/

/-- A queued notice changes only the Notice Transmitter. -/
@[simp] theorem State.queueNotice_frame (s : State) (n : Notice) :
    (s.queueNotice n).pending = s.pending ∧ (s.queueNotice n).bays = s.bays ∧ (s.queueNotice n).engine = s.engine ∧
    (s.queueNotice n).jobs = s.jobs ∧ (s.queueNotice n).lastServed = s.lastServed ∧
    (s.queueNotice n).reporter = s.reporter ∧ (s.queueNotice n).handler = s.handler ∧
    (s.queueNotice n).port = s.port ∧ (s.queueNotice n).config = s.config ∧
    (s.queueNotice n).counters = s.counters ∧ (s.queueNotice n).blink = s.blink ∧
    (s.queueNotice n).handed = s.handed ∧ (s.queueNotice n).freeDraws = s.freeDraws ∧
    (∀ c, (s.queueNotice n).bay c = s.bay c) ∧ (∀ i, (s.queueNotice n).slot i = s.slot i) ∧
    (∀ c, (s.queueNotice n).queue c = s.queue c) ∧ (∀ m, (s.queueNotice n).source m = s.source m) ∧
    (∀ c, (s.queueNotice n).bayConfig c = s.bayConfig c) ∧
    (∀ c, (s.queueNotice n).bayCounters c = s.bayCounters c) ∧ (∀ m, (s.queueNotice n).mask m = s.mask m) ∧
    (∀ c, (s.queueNotice n).liveCount c = s.liveCount c) := by
  simp [State.queueNotice]

@[simp] theorem State.queueNotice_transmitter (s : State) (n : Notice) :
    (s.queueNotice n).transmitter = { s.transmitter with pending := s.transmitter.pending ++ [n] } := rfl

/-- The notice test changes the source record and the pending notices. -/
@[simp] theorem State.noticeTest_frame (s : State) (n : SourceNo) :
    (s.noticeTest n).pending = s.pending ∧ (s.noticeTest n).bays = s.bays ∧ (s.noticeTest n).engine = s.engine ∧
    (s.noticeTest n).jobs = s.jobs ∧ (s.noticeTest n).lastServed = s.lastServed ∧
    (s.noticeTest n).handler = s.handler ∧ (s.noticeTest n).port = s.port ∧ (s.noticeTest n).config = s.config ∧
    (s.noticeTest n).counters = s.counters ∧ (s.noticeTest n).blink = s.blink ∧
    (s.noticeTest n).handed = s.handed ∧ (s.noticeTest n).freeDraws = s.freeDraws ∧
    (∀ c, (s.noticeTest n).bay c = s.bay c) ∧ (∀ i, (s.noticeTest n).slot i = s.slot i) ∧
    (∀ c, (s.noticeTest n).queue c = s.queue c) ∧ (∀ c, (s.noticeTest n).bayConfig c = s.bayConfig c) ∧
    (∀ c, (s.noticeTest n).bayCounters c = s.bayCounters c) ∧ (∀ m, (s.noticeTest n).mask m = s.mask m) ∧
    (∀ c, (s.noticeTest n).liveCount c = s.liveCount c) := by
  unfold State.noticeTest; split <;> simp

/-- Newly enabled bits change the source record and the pending notices. -/
@[simp] theorem State.newlyEnabled_frame (s : State) (n : SourceNo) :
    (s.newlyEnabled n).pending = s.pending ∧ (s.newlyEnabled n).bays = s.bays ∧
    (s.newlyEnabled n).engine = s.engine ∧ (s.newlyEnabled n).jobs = s.jobs ∧
    (s.newlyEnabled n).lastServed = s.lastServed ∧ (s.newlyEnabled n).handler = s.handler ∧
    (s.newlyEnabled n).port = s.port ∧ (s.newlyEnabled n).config = s.config ∧
    (s.newlyEnabled n).counters = s.counters ∧ (s.newlyEnabled n).blink = s.blink ∧
    (s.newlyEnabled n).handed = s.handed ∧ (s.newlyEnabled n).freeDraws = s.freeDraws ∧
    (∀ c, (s.newlyEnabled n).bay c = s.bay c) ∧ (∀ i, (s.newlyEnabled n).slot i = s.slot i) ∧
    (∀ c, (s.newlyEnabled n).queue c = s.queue c) ∧ (∀ c, (s.newlyEnabled n).bayConfig c = s.bayConfig c) ∧
    (∀ c, (s.newlyEnabled n).bayCounters c = s.bayCounters c) ∧ (∀ m, (s.newlyEnabled n).mask m = s.mask m) ∧
    (∀ c, (s.newlyEnabled n).liveCount c = s.liveCount c) := by
  unfold State.newlyEnabled; split <;> simp

/-- A recorded raise changes the source record and the pending notices. -/
@[simp] theorem State.recordRaise_frame (s : State) (n : SourceNo) (bits : Byte) :
    (s.recordRaise n bits).pending = s.pending ∧ (s.recordRaise n bits).bays = s.bays ∧
    (s.recordRaise n bits).engine = s.engine ∧ (s.recordRaise n bits).jobs = s.jobs ∧
    (s.recordRaise n bits).lastServed = s.lastServed ∧ (s.recordRaise n bits).handler = s.handler ∧
    (s.recordRaise n bits).port = s.port ∧ (s.recordRaise n bits).config = s.config ∧
    (s.recordRaise n bits).counters = s.counters ∧ (s.recordRaise n bits).blink = s.blink ∧
    (s.recordRaise n bits).handed = s.handed ∧ (s.recordRaise n bits).freeDraws = s.freeDraws ∧
    (∀ c, (s.recordRaise n bits).bay c = s.bay c) ∧ (∀ i, (s.recordRaise n bits).slot i = s.slot i) ∧
    (∀ c, (s.recordRaise n bits).queue c = s.queue c) ∧ (∀ c, (s.recordRaise n bits).bayConfig c = s.bayConfig c) ∧
    (∀ c, (s.recordRaise n bits).bayCounters c = s.bayCounters c) ∧
    (∀ m, (s.recordRaise n bits).mask m = s.mask m) ∧ (∀ c, (s.recordRaise n bits).liveCount c = s.liveCount c) := by
  simp only [State.recordRaise]; split <;> simp

/-- The removal of an event notice changes the source record and the pending notices. -/
@[simp] theorem State.eventRemoved_frame (s : State) (n : SourceNo) :
    (s.eventRemoved n).pending = s.pending ∧ (s.eventRemoved n).bays = s.bays ∧
    (s.eventRemoved n).engine = s.engine ∧ (s.eventRemoved n).jobs = s.jobs ∧
    (s.eventRemoved n).lastServed = s.lastServed ∧ (s.eventRemoved n).handler = s.handler ∧
    (s.eventRemoved n).port = s.port ∧ (s.eventRemoved n).config = s.config ∧
    (s.eventRemoved n).counters = s.counters ∧ (s.eventRemoved n).blink = s.blink ∧
    (s.eventRemoved n).handed = s.handed ∧ (s.eventRemoved n).freeDraws = s.freeDraws ∧
    (∀ c, (s.eventRemoved n).bay c = s.bay c) ∧ (∀ i, (s.eventRemoved n).slot i = s.slot i) ∧
    (∀ c, (s.eventRemoved n).queue c = s.queue c) ∧ (∀ c, (s.eventRemoved n).bayConfig c = s.bayConfig c) ∧
    (∀ c, (s.eventRemoved n).bayCounters c = s.bayCounters c) ∧ (∀ m, (s.eventRemoved n).mask m = s.mask m) ∧
    (∀ c, (s.eventRemoved n).liveCount c = s.liveCount c) := by
  simp only [State.eventRemoved]; split <;> simp

/-- What the notice test does with the source it tests (R138). -/
theorem State.noticeTest_source (s : State) (n : SourceNo) :
    (s.noticeTest n).source n =
      if (s.source n).set &&& s.mask n ≠ 0 ∧ (s.source n).stage = .noNotice ∧ s.handler.link ≠ .down then
        { s.source n with stage := .pending }
      else s.source n := by
  unfold State.noticeTest; split <;> simp [State.source, State.setSource, State.queueNotice, State.setTransmitter]

@[simp] theorem State.noticeTest_source_ne (s : State) (n m : SourceNo) (h : m ≠ n) :
    (s.noticeTest n).source m = s.source m := by
  unfold State.noticeTest; split
  · have := State.setSource_source_ne s n m { s.source n with stage := .pending } h
    simpa [State.queueNotice] using this
  · rfl

/-- What the notice test does with the pending notices (R138). -/
theorem State.noticeTest_transmitter (s : State) (n : SourceNo) :
    (s.noticeTest n).transmitter =
      if (s.source n).set &&& s.mask n ≠ 0 ∧ (s.source n).stage = .noNotice ∧ s.handler.link ≠ .down then
        { s.transmitter with pending := s.transmitter.pending ++ [.event n] }
      else s.transmitter := by
  unfold State.noticeTest; split <;> simp

@[simp] theorem State.noticeTest_resetCause (s : State) (n : SourceNo) :
    (s.noticeTest n).reporter.resetCause = s.reporter.resetCause := by
  unfold State.noticeTest; split <;> simp

end Sys2Proof.Machine
end

