-- ==== Sys2Proof/Laws/JobTable.lean ====
section
/-! SUPPORT. What the operations of the Job Table, of a transition that takes a bay's work, and of a grant can do. -/

namespace Sys2Proof.Machine

/-! ## The engine within the state -/

/-- The engine's events change its record and what is on its way. -/
@[simp] theorem State.runEngine_frame (s : State) (f : Engine → Engine × List Report) :
    (s.runEngine f).pending = s.pending ∧ (s.runEngine f).bays = s.bays ∧ (s.runEngine f).jobs = s.jobs ∧
    (s.runEngine f).lastServed = s.lastServed ∧ (s.runEngine f).reporter = s.reporter ∧
    (s.runEngine f).handler = s.handler ∧ (s.runEngine f).port = s.port ∧
    (s.runEngine f).transmitter = s.transmitter ∧ (s.runEngine f).config = s.config ∧
    (s.runEngine f).counters = s.counters ∧ (s.runEngine f).blink = s.blink ∧
    (s.runEngine f).freeDraws = s.freeDraws ∧ (∀ c, (s.runEngine f).bay c = s.bay c) ∧
    (∀ i, (s.runEngine f).slot i = s.slot i) ∧ (∀ c, (s.runEngine f).queue c = s.queue c) ∧
    (∀ m, (s.runEngine f).source m = s.source m) ∧ (∀ c, (s.runEngine f).bayConfig c = s.bayConfig c) ∧
    (∀ c, (s.runEngine f).bayCounters c = s.bayCounters c) ∧ (∀ m, (s.runEngine f).mask m = s.mask m) ∧
    (∀ c, (s.runEngine f).liveCount c = s.liveCount c) := by
  simp [State.runEngine]

@[simp] theorem State.runEngine_engine (s : State) (f : Engine → Engine × List Report) :
    (s.runEngine f).engine = (f s.engine).1 := rfl

@[simp] theorem State.runEngine_handed (s : State) (f : Engine → Engine × List Report) :
    (s.runEngine f).handed = s.handed ++ (f s.engine).2 := rfl

/-- An abandon changes the engine and what is on its way. -/
@[simp] theorem State.abandon_frame (s : State) (w : Work) :
    (s.abandon w).pending = s.pending ∧ (s.abandon w).bays = s.bays ∧ (s.abandon w).jobs = s.jobs ∧
    (s.abandon w).lastServed = s.lastServed ∧ (s.abandon w).reporter = s.reporter ∧
    (s.abandon w).handler = s.handler ∧ (s.abandon w).port = s.port ∧ (s.abandon w).transmitter = s.transmitter ∧
    (s.abandon w).config = s.config ∧ (s.abandon w).counters = s.counters ∧ (s.abandon w).blink = s.blink ∧
    (s.abandon w).freeDraws = s.freeDraws ∧ (∀ c, (s.abandon w).bay c = s.bay c) ∧
    (∀ i, (s.abandon w).slot i = s.slot i) ∧ (∀ c, (s.abandon w).queue c = s.queue c) ∧
    (∀ m, (s.abandon w).source m = s.source m) ∧ (∀ c, (s.abandon w).bayConfig c = s.bayConfig c) ∧
    (∀ c, (s.abandon w).bayCounters c = s.bayCounters c) ∧ (∀ m, (s.abandon w).mask m = s.mask m) ∧
    (∀ c, (s.abandon w).liveCount c = s.liveCount c) := by
  simp [State.abandon]

/-! ## The end of a job -/

/-- A report of a live count is only handed over. -/
@[simp] theorem State.reportLive_frame (s : State) (b : BayNo) (fell : Bool) :
    (s.reportLive b fell).pending = s.pending ∧ (s.reportLive b fell).bays = s.bays ∧
    (s.reportLive b fell).engine = s.engine ∧ (s.reportLive b fell).jobs = s.jobs ∧
    (s.reportLive b fell).lastServed = s.lastServed ∧ (s.reportLive b fell).reporter = s.reporter ∧
    (s.reportLive b fell).handler = s.handler ∧ (s.reportLive b fell).port = s.port ∧
    (s.reportLive b fell).transmitter = s.transmitter ∧ (s.reportLive b fell).config = s.config ∧
    (s.reportLive b fell).counters = s.counters ∧ (s.reportLive b fell).blink = s.blink ∧
    (s.reportLive b fell).freeDraws = s.freeDraws ∧ (∀ c, (s.reportLive b fell).bay c = s.bay c) ∧
    (∀ i, (s.reportLive b fell).slot i = s.slot i) ∧ (∀ c, (s.reportLive b fell).queue c = s.queue c) ∧
    (∀ m, (s.reportLive b fell).source m = s.source m) ∧ (∀ c, (s.reportLive b fell).bayConfig c = s.bayConfig c) ∧
    (∀ c, (s.reportLive b fell).bayCounters c = s.bayCounters c) ∧ (∀ m, (s.reportLive b fell).mask m = s.mask m) ∧
    (∀ c, (s.reportLive b fell).liveCount c = s.liveCount c) := by
  simp [State.reportLive]

@[simp] theorem State.reportLive_handed (s : State) (b : BayNo) (fell : Bool) :
    (s.reportLive b fell).handed = s.handed ++ [.liveCount b (s.liveCount b) fell] := rfl

/-- The end of a job changes the Job Table, its bay's counters, the notices and what is on its way. -/
@[simp] theorem State.endJob_frame (s : State) (j : SlotNo) (st : JobStatus) (bytesOut bytesIn : Nat) :
    (s.endJob j st bytesOut bytesIn).pending = s.pending ∧ (s.endJob j st bytesOut bytesIn).bays = s.bays ∧
    (s.endJob j st bytesOut bytesIn).engine = s.engine ∧
    (s.endJob j st bytesOut bytesIn).lastServed = s.lastServed ∧
    (s.endJob j st bytesOut bytesIn).reporter = s.reporter ∧ (s.endJob j st bytesOut bytesIn).handler = s.handler ∧
    (s.endJob j st bytesOut bytesIn).port = s.port ∧ (s.endJob j st bytesOut bytesIn).config = s.config ∧
    (s.endJob j st bytesOut bytesIn).blink = s.blink ∧ (s.endJob j st bytesOut bytesIn).freeDraws = s.freeDraws ∧
    (∀ c, (s.endJob j st bytesOut bytesIn).bay c = s.bay c) ∧
    (∀ m, (s.endJob j st bytesOut bytesIn).source m = s.source m) ∧
    (∀ c, (s.endJob j st bytesOut bytesIn).bayConfig c = s.bayConfig c) ∧
    (∀ m, (s.endJob j st bytesOut bytesIn).mask m = s.mask m) := by
  simp only [State.endJob]; split <;> simp

/-- The slot of a job that ends, and the others (R95). -/
theorem State.endJob_slot (s : State) (j i : SlotNo) (st : JobStatus) (o n : Nat) :
    (s.endJob j st o n).slot i = if i = j then (s.slot j).ended st o n else s.slot i := by
  simp only [State.endJob]; split <;> simp [State.setSlot_slot]

/-- The queues at the end of a job (R95). -/
theorem State.endJob_queue (s : State) (j : SlotNo) (c : BayNo) (st : JobStatus) (o n : Nat) :
    (s.endJob j st o n).queue c =
      if c = (s.slot j).bay then (s.queue c).filter fun i => i != j else s.queue c := by
  simp only [State.endJob]; split <;> (simp only [State.queueNotice_frame, State.reportLive_frame,
    State.setBayCounters_queue, State.setQueue_queue, State.setSlot_queue]; split <;> simp_all)

/-- The notices at the end of a job (R95, R129). -/
theorem State.endJob_transmitter (s : State) (j : SlotNo) (st : JobStatus) (o n : Nat) :
    (s.endJob j st o n).transmitter =
      if (s.slot j).orphan then s.transmitter
      else { s.transmitter with pending := s.transmitter.pending ++ [.jobDone j] } := by
  simp only [State.endJob]; split <;> simp

/-- The counters at the end of a job (R183). -/
theorem State.endJob_bayCounters (s : State) (j : SlotNo) (c : BayNo) (st : JobStatus) (o n : Nat) :
    (s.endJob j st o n).bayCounters c =
      if c = (s.slot j).bay then (s.bayCounters c).jobEnded st else s.bayCounters c := by
  simp only [State.endJob]; split <;> (simp [State.setBayCounters_bayCounters]; split <;> simp_all)

@[simp] theorem State.endJob_device (s : State) (j : SlotNo) (st : JobStatus) (o n : Nat) :
    (s.endJob j st o n).counters.device = s.counters.device := by
  simp only [State.endJob]; split <;> simp

@[simp] theorem State.endJob_pool (s : State) (j : SlotNo) (st : JobStatus) (o n : Nat) :
    (s.endJob j st o n).jobs.pool = s.jobs.pool := by
  simp only [State.endJob]; split <;> simp [State.queueNotice, State.reportLive]

/-- What the end of a job hands on (R91, R95). -/
theorem State.endJob_handed (s : State) (j : SlotNo) (st : JobStatus) (o n : Nat) :
    (s.endJob j st o n).handed =
      s.handed ++ [.liveCount (s.slot j).bay ((s.endJob j st o n).liveCount (s.slot j).bay) true] := by
  simp only [State.endJob]; split <;> rfl

/-- The end of a bay's WAITING jobs changes what the end of one job changes. -/
@[simp] theorem State.endQueue_frame (s : State) (b : BayNo) (st : JobStatus) :
    (s.endQueue b st).pending = s.pending ∧ (s.endQueue b st).bays = s.bays ∧ (s.endQueue b st).engine = s.engine ∧
    (s.endQueue b st).lastServed = s.lastServed ∧ (s.endQueue b st).reporter = s.reporter ∧
    (s.endQueue b st).handler = s.handler ∧ (s.endQueue b st).port = s.port ∧ (s.endQueue b st).config = s.config ∧
    (s.endQueue b st).blink = s.blink ∧ (s.endQueue b st).freeDraws = s.freeDraws ∧
    (∀ c, (s.endQueue b st).bay c = s.bay c) ∧ (∀ m, (s.endQueue b st).source m = s.source m) ∧
    (∀ c, (s.endQueue b st).bayConfig c = s.bayConfig c) ∧ (∀ m, (s.endQueue b st).mask m = s.mask m) := by
  unfold State.endQueue
  generalize s.queue b = q
  induction q generalizing s with
  | nil => simp
  | cons j t ih => simpa using ih (s.endJob j st 0 0)

@[simp] theorem State.endQueue_device (s : State) (b : BayNo) (st : JobStatus) :
    (s.endQueue b st).counters.device = s.counters.device := by
  unfold State.endQueue
  generalize s.queue b = q
  induction q generalizing s with
  | nil => rfl
  | cons j t ih => simpa using ih (s.endJob j st 0 0)

/-- A counted timeout changes only the counters. -/
@[simp] theorem State.countTimeout_frame (s : State) (b : BayNo) (x : Ending) :
    (s.countTimeout b x).pending = s.pending ∧ (s.countTimeout b x).bays = s.bays ∧
    (s.countTimeout b x).engine = s.engine ∧ (s.countTimeout b x).jobs = s.jobs ∧
    (s.countTimeout b x).lastServed = s.lastServed ∧ (s.countTimeout b x).reporter = s.reporter ∧
    (s.countTimeout b x).handler = s.handler ∧ (s.countTimeout b x).port = s.port ∧
    (s.countTimeout b x).transmitter = s.transmitter ∧ (s.countTimeout b x).config = s.config ∧
    (s.countTimeout b x).blink = s.blink ∧ (s.countTimeout b x).handed = s.handed ∧
    (s.countTimeout b x).freeDraws = s.freeDraws ∧ (∀ c, (s.countTimeout b x).bay c = s.bay c) ∧
    (∀ i, (s.countTimeout b x).slot i = s.slot i) ∧ (∀ c, (s.countTimeout b x).queue c = s.queue c) ∧
    (∀ m, (s.countTimeout b x).source m = s.source m) ∧ (∀ c, (s.countTimeout b x).bayConfig c = s.bayConfig c) ∧
    (∀ m, (s.countTimeout b x).mask m = s.mask m) ∧ (∀ c, (s.countTimeout b x).liveCount c = s.liveCount c) := by
  unfold State.countTimeout; split <;> simp

/-! ## Bay instructions -/

/-- A disposal changes the job's slot, the engine and what is on its way. -/
@[simp] theorem State.disposeJob_frame (s : State) (j : SlotNo) (i : BayInstruction) :
    (s.disposeJob j i).pending = s.pending ∧ (s.disposeJob j i).bays = s.bays ∧
    (s.disposeJob j i).lastServed = s.lastServed ∧ (s.disposeJob j i).reporter = s.reporter ∧
    (s.disposeJob j i).handler = s.handler ∧ (s.disposeJob j i).port = s.port ∧
    (s.disposeJob j i).transmitter = s.transmitter ∧ (s.disposeJob j i).config = s.config ∧
    (s.disposeJob j i).counters = s.counters ∧ (s.disposeJob j i).blink = s.blink ∧
    (s.disposeJob j i).freeDraws = s.freeDraws ∧ (∀ c, (s.disposeJob j i).bay c = s.bay c) ∧
    (∀ c, (s.disposeJob j i).queue c = s.queue c) ∧ (∀ m, (s.disposeJob j i).source m = s.source m) ∧
    (∀ c, (s.disposeJob j i).bayConfig c = s.bayConfig c) ∧
    (∀ c, (s.disposeJob j i).bayCounters c = s.bayCounters c) ∧ (∀ m, (s.disposeJob j i).mask m = s.mask m) := by
  unfold State.disposeJob; split <;> (try split) <;> simp

/-- Taking the live count changes the bay record and what is on its way. -/
@[simp] theorem State.syncLive_frame (s : State) (b : BayNo) :
    (s.syncLive b).pending = s.pending ∧ (s.syncLive b).engine = s.engine ∧ (s.syncLive b).jobs = s.jobs ∧
    (s.syncLive b).lastServed = s.lastServed ∧ (s.syncLive b).reporter = s.reporter ∧
    (s.syncLive b).handler = s.handler ∧ (s.syncLive b).port = s.port ∧
    (s.syncLive b).transmitter = s.transmitter ∧ (s.syncLive b).config = s.config ∧
    (s.syncLive b).counters = s.counters ∧ (s.syncLive b).blink = s.blink ∧
    (s.syncLive b).freeDraws = s.freeDraws ∧ (∀ i, (s.syncLive b).slot i = s.slot i) ∧
    (∀ c, (s.syncLive b).queue c = s.queue c) ∧ (∀ m, (s.syncLive b).source m = s.source m) ∧
    (∀ c, (s.syncLive b).bayConfig c = s.bayConfig c) ∧ (∀ c, (s.syncLive b).bayCounters c = s.bayCounters c) ∧
    (∀ m, (s.syncLive b).mask m = s.mask m) ∧ (∀ c, (s.syncLive b).liveCount c = s.liveCount c) := by
  simp only [State.syncLive]; simp

@[simp] theorem State.syncLive_bay_self (s : State) (b : BayNo) :
    (s.syncLive b).bay b = { s.bay b with liveJobs := s.liveCount b } := by
  simp only [State.syncLive]; simp

@[simp] theorem State.syncLive_bay_ne (s : State) (b c : BayNo) (h : c ≠ b) : (s.syncLive b).bay c = s.bay c := by
  simp only [State.syncLive]; simp [h]

/-- A bay instruction leaves these parts as they were. -/
@[simp] theorem State.instruct_frame (s : State) (b : BayNo) (i : BayInstruction) :
    (s.instruct b i).pending = s.pending ∧ (s.instruct b i).lastServed = s.lastServed ∧
    (s.instruct b i).reporter = s.reporter ∧ (s.instruct b i).handler = s.handler ∧
    (s.instruct b i).port = s.port ∧ (s.instruct b i).config = s.config ∧ (s.instruct b i).blink = s.blink ∧
    (s.instruct b i).freeDraws = s.freeDraws ∧ (∀ m, (s.instruct b i).source m = s.source m) ∧
    (∀ c, (s.instruct b i).bayConfig c = s.bayConfig c) ∧ (∀ m, (s.instruct b i).mask m = s.mask m) := by
  simp only [State.instruct]; split <;> simp

@[simp] theorem State.instruct_bay_ne (s : State) (b c : BayNo) (i : BayInstruction) (h : c ≠ b) :
    (s.instruct b i).bay c = s.bay c := by
  simp only [State.instruct]; split <;> simp [h]

/-- A bay instruction changes the live job count of the bay record and nothing else of it (R11). -/
theorem State.instruct_bay_self (s : State) (b : BayNo) (i : BayInstruction) :
    (s.instruct b i).bay b = { s.bay b with liveJobs := (s.instruct b i).liveCount b } := by
  simp only [State.instruct]; split <;> simp

/-! ## The identity read and the whole disposal -/

/-- Setting a read stage changes that bay. -/
@[simp] theorem State.setRead_frame (s : State) (b : BayNo) (x : ReadStage) :
    (s.setRead b x).pending = s.pending ∧ (s.setRead b x).engine = s.engine ∧ (s.setRead b x).jobs = s.jobs ∧
    (s.setRead b x).lastServed = s.lastServed ∧ (s.setRead b x).reporter = s.reporter ∧
    (s.setRead b x).handler = s.handler ∧ (s.setRead b x).port = s.port ∧
    (s.setRead b x).transmitter = s.transmitter ∧ (s.setRead b x).config = s.config ∧
    (s.setRead b x).counters = s.counters ∧ (s.setRead b x).blink = s.blink ∧ (s.setRead b x).handed = s.handed ∧
    (s.setRead b x).freeDraws = s.freeDraws ∧ (∀ i, (s.setRead b x).slot i = s.slot i) ∧
    (∀ c, (s.setRead b x).queue c = s.queue c) ∧ (∀ m, (s.setRead b x).source m = s.source m) ∧
    (∀ c, (s.setRead b x).bayConfig c = s.bayConfig c) ∧ (∀ c, (s.setRead b x).bayCounters c = s.bayCounters c) ∧
    (∀ m, (s.setRead b x).mask m = s.mask m) ∧ (∀ c, (s.setRead b x).liveCount c = s.liveCount c) := by
  simp [State.setRead]

@[simp] theorem State.setRead_bay_self (s : State) (b : BayNo) (x : ReadStage) :
    (s.setRead b x).bay b = { s.bay b with read := x } := by
  simp [State.setRead]

@[simp] theorem State.setRead_bay_ne (s : State) (b c : BayNo) (x : ReadStage) (h : c ≠ b) :
    (s.setRead b x).bay c = s.bay c := by
  simp [State.setRead, h]

/-- Disposing of an identity read leaves these parts as they were. -/
@[simp] theorem State.leaveRead_frame (s : State) (b : BayNo) (d : Disposal) :
    (s.leaveRead b d).pending = s.pending ∧ (s.leaveRead b d).jobs = s.jobs ∧
    (s.leaveRead b d).lastServed = s.lastServed ∧ (s.leaveRead b d).reporter = s.reporter ∧
    (s.leaveRead b d).handler = s.handler ∧ (s.leaveRead b d).port = s.port ∧
    (s.leaveRead b d).transmitter = s.transmitter ∧ (s.leaveRead b d).config = s.config ∧
    (s.leaveRead b d).counters = s.counters ∧ (s.leaveRead b d).blink = s.blink ∧
    (s.leaveRead b d).freeDraws = s.freeDraws ∧ (∀ i, (s.leaveRead b d).slot i = s.slot i) ∧
    (∀ c, (s.leaveRead b d).queue c = s.queue c) ∧ (∀ m, (s.leaveRead b d).source m = s.source m) ∧
    (∀ c, (s.leaveRead b d).bayConfig c = s.bayConfig c) ∧
    (∀ c, (s.leaveRead b d).bayCounters c = s.bayCounters c) ∧ (∀ m, (s.leaveRead b d).mask m = s.mask m) ∧
    (∀ c, (s.leaveRead b d).liveCount c = s.liveCount c) := by
  unfold State.leaveRead; split <;> simp

/-- The read stage that a disposal leaves (R86). -/
def ReadStage.after (x : ReadStage) (d : Disposal) : ReadStage :=
  match x, d with
  | .candidate, _ => .noRead
  | .onBus, .abort => .leaving
  | .onBus, .abandon => .noRead
  | .leaving, .abandon => .noRead
  | .onBus, .runsOn => .onBus
  | .leaving, .abort => .leaving
  | .leaving, .runsOn => .leaving
  | .noRead, _ => .noRead

theorem State.leaveRead_bay_self (s : State) (b : BayNo) (d : Disposal) :
    (s.leaveRead b d).bay b = { s.bay b with read := (s.bay b).read.after d } := by
  unfold State.leaveRead
  generalize hr : (s.bay b).read = r
  cases r <;> cases d <;> simp [ReadStage.after] <;> simp [← hr]

@[simp] theorem State.leaveRead_bay_ne (s : State) (b c : BayNo) (d : Disposal) (h : c ≠ b) :
    (s.leaveRead b d).bay c = s.bay c := by
  unfold State.leaveRead; split <;> simp [h]

/-- Taking a bay's work leaves these parts as they were. -/
@[simp] theorem State.takeWork_frame (s : State) (b : BayNo) (i : BayInstruction) :
    (s.takeWork b i).pending = s.pending ∧ (s.takeWork b i).lastServed = s.lastServed ∧
    (s.takeWork b i).reporter = s.reporter ∧ (s.takeWork b i).handler = s.handler ∧
    (s.takeWork b i).port = s.port ∧ (s.takeWork b i).config = s.config ∧ (s.takeWork b i).blink = s.blink ∧
    (s.takeWork b i).freeDraws = s.freeDraws ∧ (∀ m, (s.takeWork b i).source m = s.source m) ∧
    (∀ c, (s.takeWork b i).bayConfig c = s.bayConfig c) ∧ (∀ m, (s.takeWork b i).mask m = s.mask m) := by
  simp [State.takeWork]

@[simp] theorem State.takeWork_bay_ne (s : State) (b c : BayNo) (i : BayInstruction) (h : c ≠ b) :
    (s.takeWork b i).bay c = s.bay c := by
  simp [State.takeWork, h]

@[simp] theorem State.takeWork_device (s : State) (b : BayNo) (i : BayInstruction) :
    (s.takeWork b i).counters.device = s.counters.device := by
  simp only [State.takeWork, State.leaveRead_frame, State.instruct]; split <;> simp

/-- Taking a bay's work changes the live job count and the read stage of its record (R11, R86). -/
theorem State.takeWork_bay_self (s : State) (b : BayNo) (i : BayInstruction) :
    (s.takeWork b i).bay b =
      { s.bay b with
        liveJobs := (s.takeWork b i).liveCount b, read := (s.bay b).read.after i.readDisposal } := by
  have h : (s.takeWork b i).liveCount b = (s.instruct b i).liveCount b := by simp [State.takeWork]
  rw [h, State.takeWork, State.leaveRead_bay_self, State.instruct_bay_self]

/-! ## Transitions that reach the bay's work -/

/-- An entry to FAULTED leaves these parts as they were. -/
@[simp] theorem State.faultBay_frame (s : State) (b : BayNo) (k : FaultCause) :
    (s.faultBay b k).pending = s.pending ∧ (s.faultBay b k).lastServed = s.lastServed ∧
    (s.faultBay b k).reporter = s.reporter ∧ (s.faultBay b k).handler = s.handler ∧
    (s.faultBay b k).port = s.port ∧ (s.faultBay b k).config = s.config ∧ (s.faultBay b k).blink = s.blink ∧
    (s.faultBay b k).freeDraws = s.freeDraws ∧ (∀ m, (s.faultBay b k).source m = s.source m) ∧
    (∀ c, (s.faultBay b k).bayConfig c = s.bayConfig c) ∧ (∀ m, (s.faultBay b k).mask m = s.mask m) := by
  simp only [State.faultBay]; split <;> simp

@[simp] theorem State.faultBay_bay_ne (s : State) (b c : BayNo) (k : FaultCause) (h : c ≠ b) :
    (s.faultBay b k).bay c = s.bay c := by
  simp only [State.faultBay]; split <;> simp [h]

/-- The bay record on entry to FAULTED (R12). -/
theorem State.faultBay_bay_self (s : State) (b : BayNo) (k : FaultCause) :
    (s.faultBay b k).bay b = (((s.takeWork b .bayFault).bay b).fault k).1 := by
  simp only [State.faultBay]; split <;> simp

/-- An entry to FAULTED leaves the engine, the Job Table and the notices as the disposal of the work left them (R12). -/
theorem State.faultBay_rest (s : State) (b : BayNo) (k : FaultCause) :
    (s.faultBay b k).engine = (s.takeWork b .bayFault).engine ∧
      (s.faultBay b k).jobs = (s.takeWork b .bayFault).jobs ∧
      (s.faultBay b k).transmitter = (s.takeWork b .bayFault).transmitter ∧
      (s.faultBay b k).counters.device = s.counters.device ∧
      (s.faultBay b k).liveCount b = (s.takeWork b .bayFault).liveCount b := by
  simp only [State.faultBay]; split <;> simp

/-- What an entry to FAULTED hands on (R12). -/
theorem State.faultBay_handed (s : State) (b : BayNo) (k : FaultCause) :
    (s.faultBay b k).handed =
      (s.takeWork b .bayFault).handed ++ [.raise (baySource b) ((((s.takeWork b .bayFault).bay b).fault k).2)] := by
  have h : ¬(((s.takeWork b .bayFault).bay b).fault k).2 = 0#8 := by
    rw [Bay.fault_bits]; exact bits_ne_zero _
  simp only [State.faultBay]; split <;> simp [h]

/-- A BUS fault report leaves these parts as they were. -/
@[simp] theorem State.busFault_frame (s : State) (b : BayNo) :
    (s.busFault b).pending = s.pending ∧ (s.busFault b).lastServed = s.lastServed ∧
    (s.busFault b).reporter = s.reporter ∧ (s.busFault b).handler = s.handler ∧ (s.busFault b).port = s.port ∧
    (s.busFault b).config = s.config ∧ (s.busFault b).blink = s.blink ∧ (s.busFault b).freeDraws = s.freeDraws ∧
    (∀ m, (s.busFault b).source m = s.source m) ∧ (∀ c, (s.busFault b).bayConfig c = s.bayConfig c) ∧
    (∀ m, (s.busFault b).mask m = s.mask m) := by
  unfold State.busFault; split <;> simp

/-- A power line's change leaves these parts as they were. -/
@[simp] theorem State.testPower_frame (s : State) (b : BayNo) :
    (s.testPower b).pending = s.pending ∧ (s.testPower b).lastServed = s.lastServed ∧
    (s.testPower b).reporter = s.reporter ∧ (s.testPower b).handler = s.handler ∧ (s.testPower b).port = s.port ∧
    (s.testPower b).config = s.config ∧ (s.testPower b).blink = s.blink ∧ (s.testPower b).freeDraws = s.freeDraws ∧
    (∀ m, (s.testPower b).source m = s.source m) ∧ (∀ c, (s.testPower b).bayConfig c = s.bayConfig c) ∧
    (∀ m, (s.testPower b).mask m = s.mask m) := by
  unfold State.testPower; split <;> simp

/-- An entry to POWERING leaves these parts as they were. -/
@[simp] theorem State.enterPowering_frame (s : State) (b : BayNo) (o : Origin) :
    (s.enterPowering b o).pending = s.pending ∧ (s.enterPowering b o).lastServed = s.lastServed ∧
    (s.enterPowering b o).reporter = s.reporter ∧ (s.enterPowering b o).handler = s.handler ∧
    (s.enterPowering b o).port = s.port ∧ (s.enterPowering b o).config = s.config ∧
    (s.enterPowering b o).blink = s.blink ∧ (s.enterPowering b o).freeDraws = s.freeDraws ∧
    (∀ m, (s.enterPowering b o).source m = s.source m) ∧ (∀ c, (s.enterPowering b o).bayConfig c = s.bayConfig c) ∧
    (∀ m, (s.enterPowering b o).mask m = s.mask m) := by
  simp only [State.enterPowering]; split <;> (try split) <;> simp

/-- A POWER-OFF leaves these parts as they were. -/
@[simp] theorem State.powerOff_frame (s : State) (b : BayNo) (o : Origin) :
    (s.powerOff b o).pending = s.pending ∧ (s.powerOff b o).lastServed = s.lastServed ∧
    (s.powerOff b o).reporter = s.reporter ∧ (s.powerOff b o).handler = s.handler ∧
    (s.powerOff b o).port = s.port ∧ (s.powerOff b o).config = s.config ∧ (s.powerOff b o).blink = s.blink ∧
    (s.powerOff b o).freeDraws = s.freeDraws ∧ (∀ m, (s.powerOff b o).source m = s.source m) ∧
    (∀ c, (s.powerOff b o).bayConfig c = s.bayConfig c) ∧ (∀ m, (s.powerOff b o).mask m = s.mask m) := by
  simp [State.powerOff]

@[simp] theorem State.enterPowering_bay_ne (s : State) (b c : BayNo) (o : Origin) (h : c ≠ b) :
    (s.enterPowering b o).bay c = s.bay c := by
  simp only [State.enterPowering]; split <;> (try split) <;> simp [h]

@[simp] theorem State.powerOff_bay_ne (s : State) (b c : BayNo) (o : Origin) (h : c ≠ b) :
    (s.powerOff b o).bay c = s.bay c := by
  simp [State.powerOff, h]

/-! ## Grants -/

/-- Dropping stale abort requests changes only what is on its way. -/
@[simp] theorem State.dropAborts_frame (s : State) (w : Work) :
    (s.dropAborts w).pending = s.pending ∧ (s.dropAborts w).bays = s.bays ∧ (s.dropAborts w).engine = s.engine ∧
    (s.dropAborts w).jobs = s.jobs ∧ (s.dropAborts w).lastServed = s.lastServed ∧
    (s.dropAborts w).reporter = s.reporter ∧ (s.dropAborts w).handler = s.handler ∧
    (s.dropAborts w).port = s.port ∧ (s.dropAborts w).transmitter = s.transmitter ∧
    (s.dropAborts w).config = s.config ∧ (s.dropAborts w).counters = s.counters ∧
    (s.dropAborts w).blink = s.blink ∧ (s.dropAborts w).freeDraws = s.freeDraws ∧
    (∀ c, (s.dropAborts w).bay c = s.bay c) ∧ (∀ i, (s.dropAborts w).slot i = s.slot i) ∧
    (∀ c, (s.dropAborts w).queue c = s.queue c) ∧ (∀ m, (s.dropAborts w).source m = s.source m) ∧
    (∀ c, (s.dropAborts w).bayConfig c = s.bayConfig c) ∧ (∀ c, (s.dropAborts w).bayCounters c = s.bayCounters c) ∧
    (∀ m, (s.dropAborts w).mask m = s.mask m) ∧ (∀ c, (s.dropAborts w).liveCount c = s.liveCount c) := by
  simp [State.dropAborts]

/-- Reports put behind a new read change only what is on its way. -/
@[simp] theorem State.beginRead_frame (s : State) (b : BayNo) :
    (s.beginRead b).pending = s.pending ∧ (s.beginRead b).bays = s.bays ∧ (s.beginRead b).engine = s.engine ∧
    (s.beginRead b).jobs = s.jobs ∧ (s.beginRead b).lastServed = s.lastServed ∧
    (s.beginRead b).reporter = s.reporter ∧ (s.beginRead b).handler = s.handler ∧
    (s.beginRead b).port = s.port ∧ (s.beginRead b).transmitter = s.transmitter ∧
    (s.beginRead b).config = s.config ∧ (s.beginRead b).counters = s.counters ∧
    (s.beginRead b).blink = s.blink ∧ (s.beginRead b).freeDraws = s.freeDraws ∧
    (s.beginRead b).handed = s.handed.map (Report.beforeRead b) ∧
    (∀ c, (s.beginRead b).bay c = s.bay c) ∧ (∀ i, (s.beginRead b).slot i = s.slot i) ∧
    (∀ c, (s.beginRead b).queue c = s.queue c) ∧ (∀ m, (s.beginRead b).source m = s.source m) ∧
    (∀ c, (s.beginRead b).bayConfig c = s.bayConfig c) ∧ (∀ c, (s.beginRead b).bayCounters c = s.bayCounters c) ∧
    (∀ m, (s.beginRead b).mask m = s.mask m) ∧ (∀ c, (s.beginRead b).liveCount c = s.liveCount c) := by
  simp [State.beginRead]

/-- A selection changes the engine, the last-served bay and what is on its way. -/
@[simp] theorem State.selectWork_frame (s : State) (w : Work) (b : BayNo) (x : Message) :
    (s.selectWork w b x).pending = s.pending ∧ (s.selectWork w b x).bays = s.bays ∧
    (s.selectWork w b x).jobs = s.jobs ∧ (s.selectWork w b x).reporter = s.reporter ∧
    (s.selectWork w b x).handler = s.handler ∧ (s.selectWork w b x).port = s.port ∧
    (s.selectWork w b x).transmitter = s.transmitter ∧ (s.selectWork w b x).config = s.config ∧
    (s.selectWork w b x).counters = s.counters ∧ (s.selectWork w b x).blink = s.blink ∧
    (s.selectWork w b x).freeDraws = s.freeDraws ∧ (∀ c, (s.selectWork w b x).bay c = s.bay c) ∧
    (∀ i, (s.selectWork w b x).slot i = s.slot i) ∧ (∀ c, (s.selectWork w b x).queue c = s.queue c) ∧
    (∀ m, (s.selectWork w b x).source m = s.source m) ∧ (∀ c, (s.selectWork w b x).bayConfig c = s.bayConfig c) ∧
    (∀ c, (s.selectWork w b x).bayCounters c = s.bayCounters c) ∧ (∀ m, (s.selectWork w b x).mask m = s.mask m) ∧
    (∀ c, (s.selectWork w b x).liveCount c = s.liveCount c) := by
  simp [State.selectWork]

end Sys2Proof.Machine
end

