-- ==== Sys2Proof/Laws/BayLegal.lean ====
section
/-! SUPPORT. What each operation on a bay record keeps of the legal bay (Safety.lean): one lemma per operation, on the
record alone. -/

namespace Sys2Proof.Machine

/-- The legal bay, its seven parts spelled out. -/
theorem Bay.legal_iff (r : Bay) :
    r.Legal ↔
      (r.pen = r.state.powered ∧ (r.state = .powering → r.mrst = decide (r.powerPhase = some .ramp)) ∧
        (r.state = .resetting → r.mrst = decide (r.resetPhase = some .pulse)) ∧
        (r.state = .identifying ∨ r.state = .active → r.mrst = false) ∧
        (r.state = .empty ∨ r.state = .present ∨ r.state = .poweringDown ∨ r.state = .faulted → r.mrst = true)) ∧
      ((r.powerPhase.isSome ↔ r.state = .powering) ∧ (r.resetPhase.isSome ↔ r.state = .resetting) ∧
        (r.cause.isSome ↔ r.state = .faulted) ∧ (r.presence = true ↔ r.state ≠ .empty) ∧
        (r.holdOff.isSome → r.state = .present ∨ r.state = .active) ∧
        (r.pending.isSome →
          r.state = .powering ∨ r.state = .identifying ∨ r.state = .resetting ∨ r.state = .draining ∨
            r.state = .poweringDown) ∧
        r.timeouts ≤ 15) ∧
      ((r.powerUpTimer.isSome ↔ r.powerPhase = some .ramp) ∧
        (r.settleTimer.isSome ↔ r.powerPhase = some .settle ∨ r.resetPhase = some .settle) ∧
        (r.pulseTimer.isSome ↔ r.resetPhase = some .pulse) ∧ (r.dischargeTimer.isSome ↔ r.state = .poweringDown)) ∧
      ((r.state = .identifying ↔ r.read = .candidate ∨ r.read = .onBus) ∧ (r.read = .leaving → r.state = .draining) ∧
        (r.state = .active ∨ r.state = .resetting → r.identity.isSome) ∧ (r.state = .empty → r.identity = none)) ∧
      ((r.state ≠ .draining → r.powerLost = false) ∧ (r.state = .poweringDown → r.pgood = true)) ∧
      ((r.presenceCount.isSome ↔ r.presenceLine ≠ r.presence) ∧ (r.latchCount.isSome ↔ r.latchLine ≠ r.latchClosed) ∧
        (r.attnCount.isSome ↔ r.attnLine ≠ r.pressed)) ∧
      (r.powerLed.driven = drivenBy r.powerLed.setting r.autoPower ∧
        r.attnLed.driven = drivenBy r.attnLed.setting r.autoAttn) := Iff.rfl

/-- What a transition that takes the bay's work leaves of its record (R11, R86; State.takeWork_bay_self). -/
def Bay.workTaken (r : Bay) (n : Nat) (d : Disposal) : Bay := { r with liveJobs := n, read := r.read.after d }

theorem Bay.workTaken_abort_read (r : Bay) (n) :
    (r.workTaken n .abort).read = .noRead ∨ (r.workTaken n .abort).read = .leaving := by
  cases h : r.read <;> simp [Bay.workTaken, ReadStage.after, h]

theorem Bay.workTaken_abandon_read (r : Bay) (n) : (r.workTaken n .abandon).read = .noRead := by
  cases h : r.read <;> simp [Bay.workTaken, ReadStage.after, h]

/-- What is left to ask of a record whose bay enters FAULTED, EMPTY or a state on the way out. -/
def Bay.Steady (r : Bay) : Prop := r.DebounceLegal ∧ r.timeouts ≤ 15

theorem Bay.Legal.steady {r : Bay} (h : r.Legal) : r.Steady := ⟨h.2.2.2.2.2.1, h.2.1.2.2.2.2.2.2⟩

theorem Bay.Legal.present {r : Bay} (h : r.Legal) (hs : r.state ≠ .empty) : r.presence = true := (h.2.1.2.2.2.1).2 hs

theorem Bay.steady_endCommand (r : Bay) (x) (h : r.Steady) : (r.endCommand x).1.Steady := by
  unfold Bay.endCommand; split <;> exact h

theorem Bay.endCommand_presence (r : Bay) (x) : (r.endCommand x).1.presence = r.presence := by
  unfold Bay.endCommand; split <;> rfl

theorem Bay.endCommand_read (r : Bay) (x) : (r.endCommand x).1.read = r.read := by
  unfold Bay.endCommand; split <;> rfl

theorem Bay.steady_recordLatch (r : Bay) (h : r.Steady) : r.recordLatch.Steady := by
  obtain ⟨⟨a, b, c⟩, d⟩ := h
  exact ⟨⟨a, by simp [Bay.recordLatch], c⟩, d⟩

/-! ## Out of service -/

/-- Entry to FAULTED (R12). -/
theorem Bay.legal_fault (r : Bay) (n k) (h : r.Steady) (hp : r.presence = true) :
    ((r.workTaken n .abandon).fault k).1.Legal := by
  obtain ⟨st, pp, rp, rd, pr, lc, prs, sv, pe, lr, ca, ho, pl, al, idt, tmo, lj, put, stt, dt, pt, pc, ltc, ac, pln,
  ll,
    atl, pg, pf, pen, mr⟩ := r
  cases rd <;> cases pe <;> simp_all [
    Bay.Steady, Bay.DebounceLegal, Bay.workTaken, ReadStage.after, Bay.fault, Bay.endCommand, Bay.legal_iff,
    Bay.enter, Bay.relit, BayState.powered, Bay.powerLost, Bay.autoPower, Bay.autoAttn]

/-- Entry to EMPTY (R27). -/
theorem Bay.legal_remove (r : Bay) (n) (h : r.Legal) (hl : r.presenceLine = false) :
    ((r.workTaken n .abandon).remove).1.Legal := by
  obtain ⟨st, pp, rp, rd, pr, lc, prs, sv, pe, lr, ca, ho, pl, al, idt, tmo, lj, put, stt, dt, pt, pc, ltc, ac, pln,
  ll,
    atl, pg, pf, pen, mr⟩ := r
  cases rd <;> cases pe <;> simp_all [
    Bay.workTaken, ReadStage.after, Bay.remove, Bay.endCommand, Bay.legal_iff, Bay.enter, Bay.relit,
    BayState.powered, Bay.powerLost, Bay.autoPower, Bay.autoAttn]

/-- Entry to POWERING-DOWN, or on to PRESENT (R21, R22). -/
theorem Bay.legal_powerDown (r : Bay) (c) (h : r.Steady) (hp : r.presence = true) (hr : r.read = .noRead) :
    (r.powerDown c).1.Legal := by
  obtain ⟨st, pp, rp, rd, pr, lc, prs, sv, pe, lr, ca, ho, pl, al, idt, tmo, lj, put, stt, dt, pt, pc, ltc, ac, pln,
  ll,
    atl, pg, pf, pen, mr⟩ := r
  cases pg <;> cases pe <;> simp_all [
    Bay.Steady, Bay.DebounceLegal, Bay.powerDown, Bay.discharged, Bay.endCommand, Bay.legal_iff, Bay.enter,
    Bay.relit, BayState.powered, Bay.powerLost, Bay.autoPower, Bay.autoAttn]

/-- Entry to DRAINING with the drain condition tested (R20). -/
theorem Bay.legal_drain (r : Bay) (c) (h : r.Steady) (hp : r.presence = true)
    (hr : r.read = .noRead ∨ r.read = .leaving) : (r.drain c).1.Legal := by
  unfold Bay.drain Bay.testDrain
  split
  · rename_i hd
    refine Bay.legal_powerDown _ _ h hp ?_
    have := hd.2
    rcases hr with hr | hr
    · exact hr
    · simp [Bay.drained, Bay.enter, Bay.relit, hr] at this
  · obtain ⟨st, pp, rp, rd, pr, lc, prs, sv, pe, lr, ca, ho, pl, al, idt, tmo, lj, put, stt, dt, pt, pc, ltc, ac,
  pln, ll,
        atl, pg, pf, pen, mr⟩ := r
    rcases hr with hr | hr <;> simp_all [
      Bay.Steady, Bay.DebounceLegal, Bay.legal_iff, Bay.enter, Bay.relit, BayState.powered, Bay.powerLost,
      Bay.autoPower, Bay.autoAttn]

/-- An ORDERLY latch opening (R24). -/
theorem Bay.legal_orderly (r : Bay) (n c) (h : r.Legal) (hs : r.state ≠ .empty) :
    ((r.workTaken n .abort).recordLatch.orderly c).1.Legal := by
  unfold Bay.orderly
  refine Bay.legal_drain _ _ (Bay.steady_endCommand _ _ (Bay.steady_recordLatch _ h.steady)) ?_ ?_
  · rw [Bay.endCommand_presence]; exact h.present hs
  · rw [Bay.endCommand_read]; exact r.workTaken_abort_read n

/-- An IMMEDIATE latch opening (R25). -/
theorem Bay.legal_immediate (r : Bay) (n c) (h : r.Legal) (hs : r.state ≠ .empty) :
    ((r.workTaken n .abandon).recordLatch.immediate c).1.Legal := by
  unfold Bay.immediate
  refine Bay.legal_powerDown _ _ (Bay.steady_endCommand _ _ (Bay.steady_recordLatch _ h.steady)) ?_ ?_
  · rw [Bay.endCommand_presence]; exact h.present hs
  · rw [Bay.endCommand_read]; exact r.workTaken_abandon_read n

/-- A POWER-OFF of the link or of a hold-off in ACTIVE (R33, R49). -/
theorem Bay.legal_powerOff (r : Bay) (n o c) (h : r.Legal) (hs : r.state ≠ .empty) :
    (((r.workTaken n .abort).accept .powerOff o).drain c).1.Legal :=
  Bay.legal_drain _ _ h.steady (h.present hs) (r.workTaken_abort_read n)

/-- A POWER-OFF that supersedes the pending command (R34, R35). -/
theorem Bay.legal_supersede (r : Bay) (n c) (h : r.Legal) (hs : r.state ≠ .empty) :
    ((r.workTaken n .abort).supersede c).1.Legal := by
  unfold Bay.supersede
  refine Bay.legal_drain _ _ (Bay.steady_endCommand _ _ h.steady) ?_ ?_
  · exact (Bay.endCommand_presence _ _).trans (h.present hs)
  · have e := Bay.endCommand_read (r.workTaken n .abort) .superseded
    exact e ▸ r.workTaken_abort_read n

/-- A POWER-OFF adopted on the way out (R36). -/
theorem Bay.legal_adopt (r : Bay) (o) (h : r.Legal) (hs : r.state = .draining ∨ r.state = .poweringDown) :
    (r.accept .powerOff o).Legal := by
  obtain ⟨h1, h2, h3, h4, h5, h6, h7⟩ := h
  refine ⟨h1, ⟨h2.1, h2.2.1, h2.2.2.1, h2.2.2.2.1, h2.2.2.2.2.1, fun _ => ?_, h2.2.2.2.2.2.2⟩, h3, h4, h5, h6, h7⟩
  rcases hs with hs | hs <;> simp [Bay.accept, hs]

/-- BAYn_PGOOD falls in POWERING-DOWN (R22). -/
theorem Bay.legal_discharged (r : Bay) (h : r.Legal) (hs : r.state = .poweringDown) :
    (Bay.discharged { r with pgood := false }).1.Legal := by
  obtain ⟨st, pp, rp, rd, pr, lc, prs, sv, pe, lr, ca, ho, pl, al, idt, tmo, lj, put, stt, dt, pt, pc, ltc, ac, pln,
  ll,
    atl, pg, pf, pen, mr⟩ := r
  simp only at hs; subst hs
  cases rd <;> cases pe <;> simp_all [
    Bay.discharged, Bay.endCommand, Bay.legal_iff, Bay.enter, Bay.relit, BayState.powered, Bay.powerLost,
    Bay.autoPower, Bay.autoAttn]

/-- CLEAR-FAULT (R43). -/
theorem Bay.legal_clearFault (r : Bay) (h : r.Legal) (hs : r.state = .faulted) : r.clearFault.Legal := by
  obtain ⟨st, pp, rp, rd, pr, lc, prs, sv, pe, lr, ca, ho, pl, al, idt, tmo, lj, put, stt, dt, pt, pc, ltc, ac, pln,
  ll,
    atl, pg, pf, pen, mr⟩ := r
  simp only at hs; subst hs
  cases rd <;> simp_all [
    Bay.clearFault, Bay.legal_iff, Bay.enter, Bay.relit, BayState.powered, Bay.powerLost, Bay.autoPower, Bay.autoAttn]

/-- The drain condition tested (R20). -/
theorem Bay.legal_testDrain (r : Bay) (c) (h : r.Legal) : (r.testDrain c).1.Legal := by
  unfold Bay.testDrain
  split
  · rename_i hd
    refine Bay.legal_powerDown _ _ h.steady (h.present (by simp [hd.1])) ?_
    have h4 := h.2.2.2.1.1
    have := hd.2
    cases hr : r.read <;> simp_all [Bay.drained]
  · exact h

/-! ## Into service -/

/-- A module seated (R3). -/
theorem Bay.legal_insert (r : Bay) (h : r.Legal) (hs : r.state = .empty) (hl : r.presenceLine = true) :
    r.insert.1.Legal := by
  obtain ⟨st, pp, rp, rd, pr, lc, prs, sv, pe, lr, ca, ho, pl, al, idt, tmo, lj, put, stt, dt, pt, pc, ltc, ac, pln,
  ll,
    atl, pg, pf, pen, mr⟩ := r
  cases rd <;> simp_all [
    Bay.insert, Bay.legal_iff, Bay.enter, Bay.relit, BayState.powered, Bay.powerLost, Bay.autoPower, Bay.autoAttn]

/-- Entry to POWERING with BAYn_PFAULT_n deasserted, and phase SETTLE where BAYn_PGOOD is high (R13, R14). -/
theorem Bay.legal_ramp (r : Bay) (o c) (h : r.Legal) (hs : r.state = .present) (hf : r.pfault = false) :
    ((r.accept .powerOn o).ramp c).Legal ∧ (r.pgood = true → (((r.accept .powerOn o).ramp c).settle c).Legal) := by
  obtain ⟨st, pp, rp, rd, pr, lc, prs, sv, pe, lr, ca, ho, pl, al, idt, tmo, lj, put, stt, dt, pt, pc, ltc, ac, pln,
  ll,
    atl, pg, pf, pen, mr⟩ := r
  simp only at hs hf; subst hs hf
  cases rd <;> simp_all [
    Bay.accept, Bay.ramp, Bay.settle, Bay.legal_iff, Bay.enter, Bay.relit, BayState.powered, Bay.powerLost,
    Bay.autoPower, Bay.autoAttn]

/-- Entry to POWERING in any case, as Bay.legal_fault asks for it. -/
theorem Bay.steady_ramp (r : Bay) (o c) (h : r.Legal) (hs : r.state = .present) :
    ((r.accept .powerOn o).ramp c).Steady ∧ ((r.accept .powerOn o).ramp c).presence = true :=
  ⟨⟨h.steady.1, Nat.zero_le _⟩, h.present (by simp [hs])⟩

/-- BAYn_PGOOD rises (R14). -/
theorem Bay.legal_pgoodRise (r : Bay) (c) (h : r.Legal) (hp : r.pgood = false) :
    (let q : Bay := { r with pgood := true }
      if q.state = .powering ∧ q.powerPhase = some .ramp then q.settle c else q).Legal := by
  obtain ⟨st, pp, rp, rd, pr, lc, prs, sv, pe, lr, ca, ho, pl, al, idt, tmo, lj, put, stt, dt, pt, pc, ltc, ac, pln,
  ll,
    atl, pg, pf, pen, mr⟩ := r
  simp only at hp; subst hp
  simp only
  split
  · rename_i hh; obtain ⟨rfl, rfl⟩ := hh
    cases ho <;> cases rd <;> simp_all [
      Bay.settle, Bay.legal_iff, BayState.powered, Bay.powerLost, Bay.autoPower, Bay.autoAttn]
  · cases st <;> simp_all [
      Bay.legal_iff, BayState.powered, Bay.powerLost, Bay.autoPower, Bay.autoAttn]

/-- Entry to IDENTIFYING (R16, R41). -/
theorem Bay.legal_identify (r : Bay) (h : r.Legal) (ht : r.settleTimer.isSome)
    (hs : r.state = .powering ∨ r.state = .resetting) : r.identify.Legal := by
  obtain ⟨st, pp, rp, rd, pr, lc, prs, sv, pe, lr, ca, ho, pl, al, idt, tmo, lj, put, stt, dt, pt, pc, ltc, ac, pln,
  ll,
    atl, pg, pf, pen, mr⟩ := r
  rcases hs with hs | hs <;> simp only at hs <;> subst hs <;> rcases pp with _ | (_ | _) <;>
    rcases rp with _ | (_ | _ | _) <;> simp_all [
    Bay.identify, Bay.legal_iff, Bay.enter, Bay.relit, BayState.powered, Bay.powerLost, Bay.autoPower, Bay.autoAttn]

/-- The grant of the identity read (R80). -/
theorem Bay.legal_grant (r : Bay) (h : r.Legal) (hs : r.read = .candidate) :
    ({ r with read := .onBus, identity := none } : Bay).Legal := by
  have hst : r.state = .identifying := (h.2.2.2.1.1).2 (Or.inl hs)
  obtain ⟨h1, h2, h3, h4, h5, h6, h7⟩ := h
  exact ⟨h1, h2, h3, ⟨by simp [hst], by simp, by simp [hst], by simp [hst]⟩, h5, h6, h7⟩

/-- Entry to ACTIVE (R17, R85). -/
theorem Bay.legal_activate (r : Bay) (d) (h : r.Legal) (hs : r.state = .identifying) :
    (Bay.activate { r with read := .noRead } d).1.Legal := by
  obtain ⟨st, pp, rp, rd, pr, lc, prs, sv, pe, lr, ca, ho, pl, al, idt, tmo, lj, put, stt, dt, pt, pc, ltc, ac, pln,
  ll,
    atl, pg, pf, pen, mr⟩ := r
  simp only at hs; subst hs
  cases pe <;> simp_all [
    Bay.activate, Bay.endCommand, Bay.legal_iff, Bay.enter, Bay.relit, BayState.powered, Bay.powerLost,
    Bay.autoPower, Bay.autoAttn]

/-! ## RESETTING -/

/-- RESET-MODULE in ACTIVE (R38). -/
theorem Bay.legal_resetModule (r : Bay) (n) (h : r.Legal) (hs : r.state = .active) :
    (((r.workTaken n .abort).accept .resetModule .link).resetModule).Legal := by
  obtain ⟨st, pp, rp, rd, pr, lc, prs, sv, pe, lr, ca, ho, pl, al, idt, tmo, lj, put, stt, dt, pt, pc, ltc, ac, pln,
  ll,
    atl, pg, pf, pen, mr⟩ := r
  simp only at hs; subst hs
  unfold Bay.resetModule Bay.testPulse
  split <;> cases rd <;> simp_all [
    Bay.workTaken, ReadStage.after, Bay.startPulse, Bay.accept, Bay.legal_iff, Bay.enter, Bay.relit,
    BayState.powered, Bay.powerLost, Bay.autoPower, Bay.autoAttn]

/-- The wait for the bus tested (R39). -/
theorem Bay.legal_testPulse (r : Bay) (h : r.Legal) : r.testPulse.Legal := by
  unfold Bay.testPulse
  split
  · rename_i hh
    obtain ⟨st, pp, rp, rd, pr, lc, prs, sv, pe, lr, ca, ho, pl, al, idt, tmo, lj, put, stt, dt, pt, pc, ltc, ac,
    pln, ll,
        atl, pg, pf, pen, mr⟩ := r
    obtain ⟨rfl, rfl, rfl⟩ := hh
    simp_all [
      Bay.startPulse, Bay.legal_iff, BayState.powered, Bay.powerLost, Bay.autoPower,
      Bay.autoAttn]
  · exact h

/-- The reset pulse ends (R40). -/
theorem Bay.legal_pulseDone (r : Bay) (c) (h : r.Legal) (ht : r.pulseTimer.isSome) (hs : r.state = .resetting) :
    (r.pulseDone c).Legal := by
  obtain ⟨st, pp, rp, rd, pr, lc, prs, sv, pe, lr, ca, ho, pl, al, idt, tmo, lj, put, stt, dt, pt, pc, ltc, ac, pln,
  ll,
    atl, pg, pf, pen, mr⟩ := r
  simp only at hs; subst hs
  simp_all [
    Bay.pulseDone, Bay.legal_iff, BayState.powered, Bay.powerLost, Bay.autoPower, Bay.autoAttn]

/-- Both waits for the bus tested again (R20, R39). -/
theorem Bay.legal_retest (r : Bay) (c) (h : r.Legal) : ((r.testPulse).testDrain c).1.Legal :=
  Bay.legal_testDrain _ _ (Bay.legal_testPulse _ h)

/-! ## Lines, buttons, indicators and time -/

/-- A raw edge (R2). -/
theorem Bay.legal_edge (r : Bay) (l v) (h : r.Legal) : (r.edge l v).Legal := by
  obtain ⟨h1, h2, h3, h4, h5, h6, h7⟩ := h
  cases l <;> (unfold Bay.edge; simp only; split) <;> refine ⟨?_, ?_, ?_, ?_, ?_, ?_, ?_⟩ <;> first | assumption |
  skip
  all_goals
    obtain ⟨a, b, c⟩ := h6
    refine ⟨?_, ?_, ?_⟩ <;> first | assumption | (simp only [debounce]; split <;> simp_all)

/-- A latch change that takes no latch action (R4). -/
theorem Bay.legal_recordLatch (r : Bay) (h : r.Legal) : r.recordLatch.Legal := by
  obtain ⟨h1, h2, h3, h4, h5, h6, h7⟩ := h
  exact ⟨h1, h2, h3, h4, h5, ⟨h6.1, by simp [Bay.recordLatch], h6.2.2⟩, h7⟩

/-- The power lines take levels that show no loss of power (R6). -/
theorem Bay.legal_powerLines (r : Bay) (a b) (h : r.Legal) (hs : r.state = .poweringDown → a = true)
    (hl : ({ r with pgood := a, pfault := b } : Bay).powerLost = false) :
    ({ r with pgood := a, pfault := b } : Bay).Legal := by
  obtain ⟨h1, h2, h3, h4, h5, h6, h7⟩ := h
  exact ⟨h1, h2, h3, h4, ⟨fun _ => hl, hs⟩, h6, h7⟩

/-- BAYn_PFAULT_n is deasserted (R6). -/
theorem Bay.legal_pfaultDeassert (r : Bay) (h : r.Legal) : ({ r with pfault := false } : Bay).Legal := by
  obtain ⟨st, pp, rp, rd, pr, lc, prs, sv, pe, lr, ca, ho, pl, al, idt, tmo, lj, put, stt, dt, pt, pc, ltc, ac, pln,
  ll,
    atl, pg, pf, pen, mr⟩ := r
  cases st <;> simp_all [
    Bay.legal_iff, BayState.powered, Bay.powerLost, Bay.autoPower, Bay.autoAttn]

/-- The hold-off starts in PRESENT or ACTIVE, or ends (R47 to R49). -/
theorem Bay.legal_holdOff (r : Bay) (x : Option HoldOff) (h : r.Legal)
    (hx : x.isSome → r.state = .present ∨ r.state = .active) : (Bay.relit { r with holdOff := x }).Legal := by
  obtain ⟨h1, h2, h3, h4, h5, h6, h7⟩ := h
  exact ⟨h1, ⟨h2.1, h2.2.1, h2.2.2.1, h2.2.2.2.1, hx, h2.2.2.2.2.2⟩, h3, h4, h5, h6, ⟨rfl, rfl⟩⟩

/-- A press (R5, R47). -/
theorem Bay.legal_press (r : Bay) (c) (h : r.Legal) (hl : r.attnLine = true) : (r.press c).1.Legal := by
  have h' : ({ r with pressed := true, attnCount := none } : Bay).Legal := by
    obtain ⟨h1, h2, h3, h4, h5, h6, h7⟩ := h
    exact ⟨h1, h2, h3, h4, h5, ⟨h6.1, h6.2.1, by simp [hl]⟩, h7⟩
  unfold Bay.press Bay.offerPress
  simp only
  split
  · exact Bay.legal_holdOff _ none h' (by simp)
  split
  · rename_i hh; exact Bay.legal_holdOff _ _ h' fun _ => Or.inr hh.2
  split
  · rename_i hh; exact Bay.legal_holdOff _ _ h' fun _ => Or.inl hh.2.1
  · exact h'

/-- A release of the button (R5). -/
theorem Bay.legal_release (r : Bay) (h : r.Legal) (hl : r.attnLine = false) :
    ({ r with pressed := false, attnCount := none } : Bay).Legal := by
  obtain ⟨h1, h2, h3, h4, h5, h6, h7⟩ := h
  exact ⟨h1, h2, h3, h4, h5, ⟨h6.1, h6.2.1, by simp [hl]⟩, h7⟩

/-- INDICATE (R44, R45). -/
theorem Bay.legal_setSetting (r : Bay) (p a : Indicator) (h : r.Legal) :
    (Bay.relit { r with powerLed := p, attnLed := a }).Legal := by
  obtain ⟨h1, h2, h3, h4, h5, h6, h7⟩ := h
  exact ⟨h1, h2, h3, h4, h5, h6, ⟨rfl, rfl⟩⟩

/-- The record after a hardware reset (R1, R2). -/
theorem Bay.legal_hardwareReset (r : Bay) : r.hardwareReset.Legal := by
  obtain ⟨st, pp, rp, rd, pr, lc, prs, sv, pe, lr, ca, ho, pl, al, idt, tmo, lj, put, stt, dt, pt, pc, ltc, ac, pln,
  ll,
    atl, pg, pf, pen, mr⟩ := r
  cases pln <;> simp_all [
    Bay.hardwareReset, Bay.atReset, debounce, drivenBy, Bay.legal_iff, BayState.powered,
    Bay.powerLost, Bay.autoPower, Bay.autoAttn]

end Sys2Proof.Machine
end

