-- ==== Sys2Proof/Laws/BayTransitions.lean ====
section
/-! SUPPORT. Laws of the transitions of a bay, each in the words of the statements. -/

namespace Sys2Proof.Machine

open Sys2Proof.Claims

/-- Bringing the driven values up to date changes nothing else. -/
theorem sameButLeds_relit (r : Bay) : SameButLeds r.relit r := ⟨rfl, rfl, rfl, rfl, rfl⟩

/-- Entering a state leaves the record of the state just entered, but for the driven values. -/
theorem sameButLeds_enter (r : Bay) (st) : SameButLeds (r.enter st) (entered r st) := ⟨rfl, rfl, rfl, rfl, rfl⟩

/-- The result field after a command has ended. -/
theorem resultAfter_eq (r : Bay) (x) :
    (r.pending.map fun c => LastResult.mk c.command c.origin x).or r.lastResult = resultAfter r x := by
  unfold resultAfter; cases r.pending <;> simp

theorem commandBit_eq (r : Bay) : bitsIf r.pending.isSome COMMAND = commandBit r := rfl

/-- Entry to FAULTED, whole (R12). -/
theorem State.faultBay_spec (s : State) (b k) : FaultEntered k b s (s.faultBay b k) := by
  obtain ⟨r1, r2, r3, r4, r5⟩ := State.faultBay_rest s b k
  refine ⟨?_, fun c h => by simp [h], ?_, ?_, ?_, ?_⟩
  · ext1 <;> simp [State.faultBay_handed, Bay.fault_bits, State.takeWork_bay_self, r1, r2, r3]
    rfl
  · rw [r5, State.faultBay_bay_self, State.takeWork_bay_self, Bay.fault, Bay.endCommand_eq, resultAfter_eq]
    refine ⟨?_, rfl, rfl, rfl, rfl⟩
    have : (s.bay b).read.after BayInstruction.bayFault.readDisposal = .noRead := by
      cases (s.bay b).read <;> rfl
    rw [this]; rfl
  · intro c h; simp only [State.faultBay]; split <;> simp [State.setBayCounters_bayCounters, h]
  · exact r4
  · simp only [State.faultBay]; cases k <;> simp [FaultCause.counted, BayCounters.powerFault]

/-- Entry to DRAINING with the drain condition tested (R20 to R22). -/
theorem Bay.drain_spec (r : Bay) (c : BayConfig) :
    Drains c { entered r .draining with pen := true } (r.drain c).1 (r.drain c).2 := by
  have hd : Bay.drained ({ r.enter .draining with pen := true }) = true ↔ Drained { entered r .draining with pen :=
    true } := by
    simp [Bay.drained, Drained, Bay.enter, Bay.relit, entered, and_assoc]
  refine ⟨?_, ?_, ?_⟩
  · intro h
    rw [← hd] at h
    have e : r.drain c = ({ r.enter .draining with pen := true }, 0) := by
      unfold Bay.drain Bay.testDrain; rw [if_neg]; simp [h]
    rw [e]; exact ⟨⟨rfl, rfl, rfl, rfl, rfl⟩, rfl⟩
  · intro h hp
    rw [← hd] at h
    have e : r.drain c = Bay.powerDown { r.enter .draining with pen := true } c := by
      unfold Bay.drain Bay.testDrain; rw [if_pos]; exact ⟨rfl, h⟩
    have hp' : r.pgood = true := hp
    rw [e]
    have e2 : Bay.powerDown { r.enter .draining with pen := true } c = ({ Bay.enter { r.enter .draining with pen :=
      true } .poweringDown with pen := false, mrst := true, dischargeTimer := some (dischargeTime c) }, 0) := by
      simp [Bay.powerDown, Bay.enter, Bay.relit, hp']
    rw [e2]; exact ⟨⟨rfl, rfl, rfl, rfl, rfl⟩, rfl⟩
  · intro h hp
    rw [← hd] at h
    have e : r.drain c = Bay.powerDown { r.enter .draining with pen := true } c := by
      unfold Bay.drain Bay.testDrain; rw [if_pos]; exact ⟨rfl, h⟩
    have hp' : r.pgood = false := hp
    rw [e]
    simp only [Bay.powerDown, Bay.discharged, Bay.endCommand_eq, resultAfter_eq]
    rw [if_neg (by simp [Bay.enter, Bay.relit, hp'])]
    exact ⟨⟨rfl, rfl, rfl, rfl, rfl⟩, rfl⟩

theorem raised_append (l : List Report) (n bits) : raised l n bits = l ++ if bits = 0 then [] else [.raise n bits]
  := by
  unfold raised; split <;> simp

/-- A transition that drains the bay after its work is taken away (R20). -/
theorem State.actBay_goesOut (s : State) (b) (f : Bay → Bay × Byte) (r : Bay) (bits : Byte)
    (hf : f ((s.takeWork b .bayOff).bay b) = ((r.drain (s.bayConfig b)).1, bits ||| (r.drain (s.bayConfig b)).2)) :
    GoesOut b s ((s.takeWork b .bayOff).actBay b f) r bits := by
  refine ⟨(r.drain (s.bayConfig b)).2, ?_, fun c h => by simp [h], ?_⟩
  · rw [raised_append]; ext1 <;> simp [hf]
  · rw [State.actBay_bay_self, hf]; exact Bay.drain_spec r _

/-- Entry to POWERING, whole (R13, R14, R26). -/
theorem State.enterPowering_spec (s : State) (b o) : PoweringEntered o b s (s.enterPowering b o) := by
  refine ⟨s.setBay b (((s.bay b).accept .powerOn o).ramp (s.bayConfig b)), rfl, fun c h => by simp [h], ?_, ?_, ?_,
    ?_⟩
  · simp; exact ⟨rfl, rfl, rfl, rfl, rfl⟩
  · intro h
    simp only [State.enterPowering]
    rw [if_pos (by simp [Bay.ramp, Bay.accept, Bay.enter, Bay.relit, h])]; exact State.faultBay_spec _ _ _
  · intro h h'
    simp only [State.enterPowering]
    rw [if_neg (by simp [Bay.ramp, Bay.accept, Bay.enter, Bay.relit, h]), if_pos (by simp [Bay.ramp, Bay.accept,
      Bay.enter, Bay.relit, h'])]
    refine ⟨?_, fun c h => by simp [h], by simp; rfl⟩
    ext1 <;> simp
  · intro h h'
    simp only [State.enterPowering]
    rw [if_neg (by simp [Bay.ramp, Bay.accept, Bay.enter, Bay.relit, h]), if_neg (by simp [Bay.ramp, Bay.accept,
      Bay.enter, Bay.relit, h'])]

/-- RESETTING with no job of the bay on the bus (R39). -/
theorem Bay.resetModule_pulses (w : Bay) (h : w.liveJobs = 0) :
    Resets w (Bay.resetModule (w.accept .resetModule .link)) := by
  unfold Resets; simp only; rw [if_pos h]
  have : Bay.resetModule (w.accept .resetModule .link) = Bay.startPulse { (w.accept .resetModule .link).enter .resetting with pen := true, mrst := false, resetPhase := some .waitBus } := by
    unfold Bay.resetModule Bay.testPulse; rw [if_pos]; exact ⟨rfl, rfl, h⟩
  rw [this]; exact ⟨rfl, rfl, rfl, rfl, rfl⟩

/-- RESETTING with a job of the bay on the bus (R38). -/
theorem Bay.resetModule_waits (w : Bay) (h : ¬ w.liveJobs = 0) :
    Resets w (Bay.resetModule (w.accept .resetModule .link)) := by
  unfold Resets; simp only; rw [if_neg h]
  have : Bay.resetModule (w.accept .resetModule .link) = { (w.accept .resetModule .link).enter .resetting with pen := true, mrst := false, resetPhase := some .waitBus } := by
    unfold Bay.resetModule Bay.testPulse; rw [if_neg]; rintro ⟨_, _, h'⟩; exact h h'
  rw [this]; exact ⟨rfl, rfl, rfl, rfl, rfl⟩

theorem sameButLeds_self (r : Bay) (h : r.LedsLegal) : SameButLeds r r := ⟨rfl, rfl, rfl, h⟩

theorem sameButLeds_of_eq (r' r : Bay) (h : r' = r) (hl : r.LedsLegal) : SameButLeds r' r := by subst h; exact sameButLeds_self _ hl

/-- The drain condition tested in DRAINING (R20 to R22). -/
theorem Bay.testDrain_spec (r : Bay) (c : BayConfig) (hs : r.state = .draining) (hl : r.LedsLegal) :
    Drains c r (r.testDrain c).1 (r.testDrain c).2 := by
  have hd : r.drained = true ↔ Drained r := by simp [Bay.drained, Drained, and_assoc]
  refine ⟨?_, ?_, ?_⟩
  · intro h; rw [← hd] at h
    have : r.testDrain c = (r, 0) := by simp [Bay.testDrain, h]
    rw [this]; exact ⟨sameButLeds_self _ hl, rfl⟩
  · intro h hp; rw [← hd] at h
    have : r.testDrain c = ({ r.enter .poweringDown with pen := false, mrst := true, dischargeTimer := some (dischargeTime c) }, 0) := by
      simp [Bay.testDrain, h, hs, Bay.powerDown, Bay.enter, Bay.relit, hp]
    rw [this]; exact ⟨⟨rfl, rfl, rfl, rfl, rfl⟩, rfl⟩
  · intro h hp; rw [← hd] at h
    have e : r.testDrain c = r.powerDown c := by simp [Bay.testDrain, h, hs]
    rw [e]
    simp only [Bay.powerDown, Bay.discharged, Bay.endCommand_eq, resultAfter_eq]
    rw [if_neg (by simp [Bay.enter, Bay.relit, hp])]
    exact ⟨⟨rfl, rfl, rfl, rfl, rfl⟩, rfl⟩

/-- The bay's wait for the bus tested again (R20, R39). -/
theorem State.actBay_waitTested (s : State) (b : BayNo) (r : Bay) (f : Bay → Bay × Byte) (hl : r.LedsLegal)
    (hf : f (s.bay b) = r.retest (s.bayConfig b)) : WaitTested b s (s.actBay b f) r := by
  refine ⟨(f (s.bay b)).2, ?_, fun c h => by simp [h], ?_, ?_, ?_⟩
  · rw [raised_append]; ext1 <;> simp
  · intro h
    rw [State.actBay_bay_self, hf, Bay.retest]
    have : r.testPulse = r := by simp [Bay.testPulse, h]
    rw [this]; exact Bay.testDrain_spec r _ h hl
  · intro h1 h2 h3
    rw [State.actBay_bay_self, hf, Bay.retest]
    have : r.testPulse = r.startPulse := by simp [Bay.testPulse, h1, h2, h3]
    rw [this, Bay.testDrain, if_neg (by simp [Bay.startPulse, h1])]; exact ⟨rfl, rfl⟩
  · intro h1 h2
    rw [State.actBay_bay_self, hf, Bay.retest]
    have : r.testPulse = r := by unfold Bay.testPulse; rw [if_neg]; rintro ⟨a, b, c⟩; rcases h2 with h | h | h <;> contradiction
    rw [this, Bay.testDrain, if_neg (by simp [h1])]; exact ⟨rfl, rfl⟩

theorem State.busFault_eq (s : State) (b) : s.busFault b = if (s.bay b).state = .empty ∨ (s.bay b).state = .faulted
  then s else s.faultBay b .bus := rfl

end Sys2Proof.Machine
end

