-- ==== Sys2Proof/Laws/BusEngine.lean ====
section
/-! SUPPORT. Laws of the Module Bus Engine and the Bus Arbiter, in the words of the statements. -/

namespace Sys2Proof.Machine

open Sys2Proof.Claims

/-- The end of a message with the release of the bus, whole (R68, R73, R74). -/
theorem Engine.finish_spec (s : State) (b : BayNo) (x : Ending) (e : Engine) (hb : e.selected = some b) (hw :
  e.work ≠ none) :
    MessageEnds x b s ((s.setEngine (e.finish x).1).handAll (e.finish x).2) e := by
  obtain ⟨w, hw⟩ := Option.ne_none_iff_exists'.mp hw
  unfold MessageEnds
  have h1 : e.finish x = ({ released e with ending := endingAfter e x },
    Claims.endingReports e x ++ .release b false :: if lineHigh e then [.raise deviceSource BUS_HELD] else []) := by
    unfold Engine.finish Engine.fix Engine.release Engine.watch Engine.deselect released endingAfter
      Claims.endingReports lineHigh heldTime Engine.endingReports Engine.endingReport
    cases he : e.ending <;> by_cases hl : (e.ack || e.revack) = true <;> cases w <;> simp [he, hb, hw, hl]
  rw [h1]; simp [State.setEngine, State.handAll]

theorem State.runEngine_finish (s : State) (b : BayNo) (x : Ending) (e : Engine) (hb : e.selected = some b) (hw :
  e.work ≠ none) (f : Engine → Engine × List Report) (hf : f s.engine = e.finish x) :
    MessageEnds x b s (s.runEngine f) e := by
  unfold State.runEngine; rw [hf]; exact Engine.finish_spec s b x e hb hw

/-- An engine operation after the lines have moved. -/
theorem State.runEngine_setEngine (s : State) (e0 : Engine) (f : Engine → Engine × List Report) : (s.setEngine
  e0).runEngine f = (s.setEngine (f e0).1).handAll (f e0).2 := rfl

theorem Engine.startItem_eq (c e i) : Engine.startItem e c i = byteDue c e i (e.itemByte i) := rfl

theorem State.busConfig_selected (s : State) (b : BayNo) (h : s.engine.selected = some b) : s.busConfig =
  s.bayConfig b := by simp [State.busConfig, h]

/-- The run length at the head of the data (R65). -/
theorem runLength_replicate (n : Nat) (v : Byte) (rest : List Byte) (h : rest.head? ≠ some v) :
    runLength (List.replicate (n+1) v ++ rest) = n + 1 := by
  induction n with
  | zero => cases rest with
    | nil => rfl
    | cons a t => simp at h; simp [runLength, Ne.symm h]
  | succ k ih => 
    rw [List.replicate_succ, List.cons_append]
    rw [List.replicate_succ, List.cons_append] at ih ⊢
    simp only [runLength]; rw [if_pos trivial, ih]

/-- The wait for the module's lines, or the release where both are low (R64, R72). -/
theorem Engine.releaseIfLow_closes (s : State) (b c) (x : Ending) (e : Engine) (st a) (hb : e.selected = some b)
  (hw : e.work ≠ none) (r : Engine × List Report)
    (hr : r = Engine.releaseIfLow (waiting c e st a) x) : Closes x b c s ((s.setEngine r.1).handAll r.2) e st a := by
  unfold Closes; subst hr
  by_cases h : lineHigh e = true
  · have : Engine.releaseIfLow (waiting c e st a) x = (waiting c e st a, []) := if_pos h
    rw [if_pos h, this]; simp [State.setEngine, State.handAll]
  · have : Engine.releaseIfLow (waiting c e st a) x = (waiting c e st a).finish x := if_neg h
    rw [if_neg h, this]; exact Engine.finish_spec s b x _ hb hw

theorem Engine.waitLines_eq (e : Engine) (c) : e.waitLines c = Engine.releaseIfLow (waiting c e .aborting (some
  .waitLines)) .aborted := rfl

theorem Engine.turnBack_eq (e : Engine) (c) (h : e.abortStep = none) :
    e.turnBack c = Engine.releaseIfLow (waiting c e .turningBack none) .done := by
  unfold Engine.turnBack waiting; rw [← h]; rfl

/-- The ending is fixed and reported once (R60, R74, R78). -/
theorem Engine.fix_eq (e : Engine) (x : Ending) (b) (hb : e.selected = some b) (hw : e.work ≠ none) :
    e.fix x = ({ e with ending := endingAfter e x }, Claims.endingReports e x) := by
  obtain ⟨w, hw⟩ := Option.ne_none_iff_exists'.mp hw
  unfold Engine.fix endingAfter Claims.endingReports Engine.endingReports Engine.endingReport
  cases he : e.ending
  · cases w <;> simp [hb, hw]
  · simp; rw [← he]

/-- PROTOCOL and OVERRUN, whole (R69). -/
theorem Engine.refuse_spec (s : State) (b c) (x : Ending) (e : Engine) (hb : e.selected = some b) (hw : e.work ≠
  none) :
    Refused x b c s ((s.setEngine (e.refuse c x).1).handAll (e.refuse c x).2) e := by
  have h2 : e.refuse c x = ((Engine.waitLines { e with ending := endingAfter e x } c).1,
    Claims.endingReports e x ++ (Engine.waitLines { e with ending := endingAfter e x } c).2) := by
    unfold Engine.refuse; rw [Engine.fix_eq e x b hb hw]
  have := Engine.releaseIfLow_closes { s with handed := s.handed ++ Claims.endingReports e x } b c .aborted { e with ending := endingAfter e x } .aborting (some .waitLines) hb hw _ (Engine.waitLines_eq _ _)
  unfold Refused
  rw [h2]
  convert this using 1
  simp [State.setEngine, State.handAll]

/-- What the engine makes of an offered byte, whole (R56, R59, R63, R66, R67). -/
theorem State.takeOffer_spec (s : State) (b) (e : Engine) (hb : e.selected = some b) (hw : e.work ≠ none) (he : e.ending = none) (hs : e.state = .reverse) (hh : e.handshake = .offer) (ha : e.ack = true) (hl : e.bytesIn ≤ e.message.inLimit) :
    OfferExamined b (s.bayConfig b) s ((s.setEngine e).takeOffer) e := by
  have ho : e.offered = true := by simp [Engine.offered, hs, hh, ha]
  have h0 : (s.setEngine e).takeOffer = ((s.setEngine e).storeOffer.setEngine ((s.setEngine
    e).storeOffer.engine.examine (s.bayConfig b)).1).handAll ((s.setEngine e).storeOffer.engine.examine
    (s.bayConfig b)).2 := by
    unfold State.takeOffer; rw [if_pos (by exact ho)]
    have : (s.setEngine e).busConfig = s.bayConfig b := by rw [State.busConfig_selected _ b (by exact hb)]; rfl
    rw [this]; rfl
  have h1 : (s.setEngine e).storeOffer.engine = e := by
    unfold State.storeOffer; split <;> rfl
  rw [h0, h1]
  have hkeep : ∀ n, e.copies = n → (s.setEngine e).storeOffer.setEngine e.keep = stored s e n := by
    intro n hn; subst hn
    obtain ⟨w, hw⟩ := Option.ne_none_iff_exists'.mp hw
    cases w <;> simp [State.storeOffer, stored, Engine.keep, Engine.received, hw, State.setEngine, State.setPool]
    rfl
  have hse : ∀ n, (stored s e n).engine = e.keep ∨ True := fun _ => Or.inr trivial
  have hcmd : e.modByte.cmd = true → ∀ e2 l, ((s.setEngine e).storeOffer.setEngine e2).handAll l = (s.setEngine
    e2).handAll l := by
    intro hc e2 l
    have hz : e.copies = 0 := by simp [Engine.copies, hc]
    obtain ⟨w, hw⟩ := Option.ne_none_iff_exists'.mp hw
    cases w <;> simp [State.storeOffer, hw, State.setEngine, State.setPool, Engine.received, hz, poolStore]
  unfold OfferExamined; intro w
  refine ⟨fun h h' => ?_, fun h h' => ?_, fun h h' => ?_, fun h h' h'' => ?_, fun h h' => ?_⟩
  · have hc : e.copies = w := by simp [Engine.copies, h, Engine.weight, Engine.room, w] at *; omega
    have hx : e.examine (s.bayConfig b) = (e.keep.take (s.bayConfig b) .taken none, []) := by
      unfold Engine.examine; rw [if_neg (by simp [h]), if_pos]; simp [Engine.weight, Engine.room]; simp [w] at h';
        omega
    rw [hx]
    have := hkeep w hc
    rw [← this]; simp [State.setEngine, State.handAll]; rfl
  · have hc : e.copies = e.message.inLimit - e.bytesIn := by simp [Engine.copies, h, Engine.weight, Engine.room, w] at *; omega
    have hx : e.examine (s.bayConfig b) = e.keep.refuse (s.bayConfig b) .overrun := by
      unfold Engine.examine; rw [if_neg (by simp [h]), if_neg]; simp [Engine.weight, Engine.room]; simp [w] at h';
        omega
    rw [hx]
    intro u
    have hk := hkeep _ hc
    have hu : u.engine = e.keep := by simp only [u]; rw [← hk]; rfl
    have := Engine.refuse_spec u b (s.bayConfig b) .overrun u.engine (by rw [hu]; exact hb) (by rw [hu]; exact hw)
    convert this using 1
    rw [hu]; simp only [u]; rw [← hk]; simp [State.setEngine, State.handAll]
  · have hc : e.modByte.cmd = true := by rw [h]
    have hx : e.examine (s.bayConfig b) = (e.take (s.bayConfig b) .takenEnd none).fix .done := by
      unfold Engine.examine; rw [if_pos hc, if_neg (by simp [h']), if_pos (by rw [h])]
    rw [hcmd hc, hx, Engine.fix_eq (e.take (s.bayConfig b) .takenEnd none) .done b hb hw]
    have e1 : Claims.endingReports (e.take (s.bayConfig b) .takenEnd none) .done = Claims.endingReports e .done := rfl
    rw [e1]; simp [State.setEngine, State.handAll, endingAfter, Engine.take, he, taken, byteTime]
  · have hx : e.examine (s.bayConfig b) = (e.take (s.bayConfig b) .taken (some (e.modByte.data.toNat - 0x80 + 1)), []) := by
      unfold Engine.examine; rw [if_pos h, if_neg (by simp [h'']), if_neg (by rintro h; rw [h] at h'; exact absurd h' (by decide)), if_pos (by exact h')]
    rw [hcmd h, hx]
    have : e.modByte.data.toNat - 0x80 + 1 = e.modByte.data.toNat - 0x7F := by omega
    rw [this]; simp [State.setEngine, State.handAll, Engine.take, taken, byteTime]
  · have hx : e.examine (s.bayConfig b) = e.refuse (s.bayConfig b) .protocol := by
      unfold Engine.examine; rw [if_pos h]
      rcases h' with h' | ⟨h', h''⟩
      · rw [if_pos (by cases hp : e.pendingRepeat <;> simp_all)]
      · split
        · rfl
        · have h9 : ¬ 129 ≤ e.modByte.data.toNat := by omega
          first | rw [if_neg h', if_neg h9] | rw [if_neg h9]
    rw [hcmd h, hx]; exact Engine.refuse_spec s b _ .protocol e hb hw

/-- The release where both module lines are low. -/
theorem Engine.releaseIfLow_spec (s : State) (b x) (e : Engine) (hb : e.selected = some b) (hw : e.work ≠ none) :
   (lineHigh e = false → MessageEnds x b s ((s.setEngine (e.releaseIfLow x).1).handAll (e.releaseIfLow x).2) e) ∧ (lineHigh e = true → (s.setEngine (e.releaseIfLow x).1).handAll (e.releaseIfLow x).2 = { s with engine := e }) := by
  refine ⟨fun h => ?_, fun h => ?_⟩
  · have : e.releaseIfLow x = e.finish x := if_neg (by simpa [lineHigh] using h)
    rw [this]; exact Engine.finish_spec s b x e hb hw
  · have : e.releaseIfLow x = (e, []) := if_pos h
    rw [this]; simp [State.setEngine, State.handAll]

/-- Taking an abort request that is on its way removes the oldest of it. -/
theorem State.takeAbortReport_eq (s : State) (w : Work) :
    (s.takeReport (Report.abortOf? w) fun _ t => t) = { s with handed := s.handed.erase (.abortRequest w) } := by
  have : ∀ l : List Report, (match takeFirst (Report.abortOf? w) l with | none => l | some (_, r) => r) = l.erase (.abortRequest w) := by
    intro l; induction l with
    | nil => rfl
    | cons r t ih =>
      by_cases hr : r = .abortRequest w
      · simp [takeFirst, Report.abortOf?, hr]
      · rw [List.erase_cons_tail (by simpa using hr), ← ih]
        simp only [takeFirst, Report.abortOf?, hr, if_false]
        cases takeFirst (Report.abortOf? w) t <;> rfl
  rw [← this]
  unfold State.takeReport
  cases h : takeFirst (Report.abortOf? w) s.handed with
  | none => rfl
  | some p => rfl

/-- An abandon, whole (R73). -/
theorem State.abandon_spec (s : State) (w) : Abandoned w s (s.abandon w) := by
  refine ⟨fun h => ?_, fun b h1 h2 => ⟨fun h3 => ?_, fun h3 => ?_⟩⟩
  · simp [State.abandon, State.runEngine, Engine.abandon, h, State.setEngine, State.handAll]
  · apply State.runEngine_finish s b _ s.engine h2 (by simp [h1]); simp [Engine.abandon, h1, h3]
  · apply State.runEngine_finish s b _ s.engine h2 (by simp [h1]); simp [Engine.abandon, h1, h3]

theorem State.activeSlot?_none (s : State) (h : ∀ j : SlotNo, (s.slot j).state ≠ .active) : s.activeSlot? = none := by
  simp only [State.activeSlot?, List.find?_eq_none]; intro j _; simp [h j]

/-- The scan finds the first bay after the last-served one (R116). -/
theorem scanOrder_find? (last b : BayNo) (p : BayNo → Bool) (hb : p b = true) (hm : ∀ c,
  p c = true → scanPlace last b ≤ scanPlace last c) :
    (scanOrder last).find? p = some b := by
  have key : ∀ last b : BayNo, (scanOrder last) = ((List.finRange 8).take (scanPlace last b)).map (fun i => last +
    1 + i) ++ b :: ((List.finRange 8).drop (scanPlace last b + 1)).map (fun i => last + 1 + i) := by decide
  have key2 : ∀ last b : BayNo, ∀ c ∈ ((List.finRange 8).take (scanPlace last b)).map (fun i => last + 1 + i),
    scanPlace last c < scanPlace last b := by decide
  rw [key last b, List.find?_append]
  have : (List.map (fun i => last + 1 + i) (List.take (scanPlace last b) (List.finRange 8))).find? p = none := by
    rw [List.find?_eq_none]; intro c hc hp
    have h1 := key2 last b c hc; have h2 := hm c hp; omega
  rw [this]; simp [hb]

theorem filter_isAbortOf (l : List Report) (w) :
    (l.filter fun r => !Report.isAbortOf w r) = l.filter fun r => r != .abortRequest w := by
  apply List.filter_congr; intro r _; simp only [Report.isAbortOf, bne]; congr 1

theorem Engine.select_eq (c : BayConfig) (e : Engine) (w b m buf) (h :
    buf = if w = .identity b then [] else e.identityBuffer) : e.select c w b m = granted c e w b m buf := by
  subst h; rfl

end Sys2Proof.Machine
end

