-- ==== Sys2Proof/Laws/Events.lean ====
section
/-! SUPPORT. Laws of the Event Reporter and the configuration records, in the words of the statements. -/

namespace Sys2Proof.Machine

open Sys2Proof.Claims

/-- The notice test, whole (R138). -/
theorem State.noticeTest_spec (s : State) (n) : Tested s (s.noticeTest n) n := by
  refine ⟨?_, by simp, fun m h => by simp [h], ?_, ?_⟩
  · ext1 <;> simp
  · intro h; rw [State.noticeTest_source, State.noticeTest_transmitter, if_pos h, if_pos h]; exact ⟨rfl, rfl⟩
  · intro h; rw [State.noticeTest_source, State.noticeTest_transmitter, if_neg h, if_neg h]; exact ⟨rfl, rfl⟩

/-- Newly enabled bits by the notice stage (R139). -/
theorem State.newlyEnabled_spec (s : State) (n) : NewlyEnabled s (s.newlyEnabled n) n := by
  refine ⟨fun h => ?_, fun h => ?_, fun h => ?_⟩ <;> simp only [State.newlyEnabled, h]
  exact State.noticeTest_spec s n

/-- A raise recorded (R135). -/
theorem State.recordRaise_spec (s : State) (n bits) : Recorded s (s.recordRaise n bits) n bits := by
  refine ⟨fun h => ?_, fun h => ?_⟩
  · simp only [State.recordRaise]; rw [if_pos (by simpa using h)]; exact State.newlyEnabled_spec _ _
  · simp only [State.recordRaise]; rw [if_neg (by simpa using h)]

theorem sourceOf?_some (src : Byte) (n : SourceNo) (h : n.val = src.toNat) : sourceOf? src = some n := by
  have := n.isLt; unfold sourceOf?; rw [dif_pos (by omega)]; congr 1; exact Fin.ext h.symm

theorem sourceOf?_none (src : Byte) (h : 9 ≤ src.toNat) : sourceOf? src = none := by simp [sourceOf?]; omega

theorem deviceSource_iff (src : Byte) (n : SourceNo) (h : n.val = src.toNat) : n = deviceSource ↔ src = 8 := by
  constructor
  · intro e; apply BitVec.eq_of_toNat_eq; rw [← h, e]; rfl
  · intro e; apply Fin.ext; rw [h, e]; rfl

theorem bayConfigOf?_bytes (c : BayConfig) (h : bayConfigInRange c) : bayConfigOf? (bayConfigBytes c) = some c := by
  obtain ⟨h1, h2, h3, h4, h5, h6, h7, h8, h9⟩ := h
  have hl : latchActionOf? (latchActionCode c.latchAction) = some c.latchAction := by cases c.latchAction <;> rfl
  have ha : attentionActionOf? (attentionActionCode c.attentionAction) = some c.attentionAction := by cases
    c.attentionAction <;> rfl
  simp only [bayConfigOf?, bayConfigBytes, byteAt, List.getD_cons_zero, List.getD_cons_succ, hl, ha]
  rw [if_pos ⟨h1, h2, h3, h4, h5, h6, h7, h8, h9⟩]

theorem bayConfigOf?_some (l : List Byte) (c : BayConfig) (hl : l.length = 10) (h : bayConfigOf? l = some c) :
    bayConfigInRange c ∧ l = bayConfigBytes c := by
  match l, hl with
  | [a0, a1, a2, a3, a4, a5, a6, a7, a8, a9], _ =>
    simp only [bayConfigOf?, byteAt, List.getD_cons_zero, List.getD_cons_succ] at h
    split at h
    · rename_i x y hx hy
      split at h
      · rename_i hr
        have e := Option.some.inj h
        clear h
        subst e
        refine ⟨hr, ?_⟩
        have e1 : latchActionCode x = a6 := by
          unfold latchActionOf? at hx; split at hx
          · rename_i h; cases hx; exact h.symm
          · split at hx
            · rename_i h; cases hx; exact h.symm
            · cases hx
        have e2 : attentionActionCode y = a7 := by
          unfold attentionActionOf? at hy; split at hy
          · rename_i h; cases hy; exact h.symm
          · split at hy
            · rename_i h; cases hy; exact h.symm
            · cases hy
        simp [bayConfigBytes, e1, e2]
      · cases h
    · cases h

theorem State.storeBayConfig_frame (s : State) (b c) :
    (s.storeBayConfig b c) =
      { s with config := (s.setBayConfig b c).config, reporter := (s.storeBayConfig b c).reporter,
               transmitter := (s.storeBayConfig b c).transmitter } := by
  simp only [State.storeBayConfig]
  split
  · ext1 <;> simp [State.setBayConfig]
  · rfl

/-- A bay's configuration record stored, whole (R137, R180). -/
theorem State.storeBayConfig_spec (c : BayConfig) (b : BayNo) (s : State) : RecordStored c b s (s.storeBayConfig b c) := by
  unfold RecordStored
  intro u fresh
  have hv : u.source (baySource b) = s.source (baySource b) := by simp [u]
  have : s.storeBayConfig b c = if fresh ≠ 0 then u.newlyEnabled (baySource b) else u := by
    simp only [State.storeBayConfig]
    rw [show (s.setBayConfig b c).source (baySource b) = s.source (baySource b) from hv]
  rw [this]
  exact ⟨fun h => by rw [if_pos h]; exact State.newlyEnabled_spec _ _, fun h => by rw [if_neg (not_not.2 h)]⟩

/-- The record stored for a list of bays, one after another (R180). -/
theorem storeBayConfigs_chain (c : BayConfig) :
    ∀ (l : List BayNo) (s : State), RecordStoredAt c l s (l.foldl (fun t b => t.storeBayConfig b c) s)
  | [], _ => rfl
  | b :: l, s => ⟨s.storeBayConfig b c, State.storeBayConfig_spec c b s, storeBayConfigs_chain c l _⟩

/-- SET-BAY-CONFIG for several bays. -/
theorem storeBayConfigs_spec (l : List BayNo) (c : BayConfig) : ∀ s : State,
    let t := l.foldl (fun t b => t.storeBayConfig b c) s
    t = { s with config := t.config, reporter := t.reporter, transmitter := t.transmitter } ∧ t.config.link = s.config.link ∧
    (∀ b, t.bayConfig b = if b ∈ l then c else s.bayConfig b) := by
  induction l with
  | nil => intro s; refine ⟨rfl, rfl, fun b => by simp⟩
  | cons a l ih =>
    intro s t
    obtain ⟨h1, h2, h3⟩ := ih (s.storeBayConfig a c)
    have hc : (s.storeBayConfig a c).config = (s.setBayConfig a c).config := by rw [State.storeBayConfig_frame]
    refine ⟨?_, ?_, ?_⟩
    · have ht : t = l.foldl (fun t b => t.storeBayConfig b c) (s.storeBayConfig a c) := rfl
      rw [← ht] at h1
      refine h1.trans ?_
      have e := State.storeBayConfig_frame s a c
      ext1 <;> first | rfl | (rw [e])
    · exact h2.trans (by rw [hc]; rfl)
    · intro b; refine (h3 b).trans ?_
      have : (s.storeBayConfig a c).bayConfig b = if b = a then c else s.bayConfig b := by
        have : (s.storeBayConfig a c).bayConfig b = (s.setBayConfig a c).bayConfig b := by simp only
          [State.bayConfig, hc]
        rw [this]; simp [State.setBayConfig_bayConfig]
      rw [this]; by_cases hb : b = a <;> simp [hb]

end Sys2Proof.Machine
end

