-- ==== Sys2Proof/Laws/Word.lean ====
section
/-! SUPPORT. A 16-bit field is its two bytes, and a byte or field read back from a number is the number. -/

namespace Sys2Proof.Machine

theorem word_hi_lo (w : Word16) : word (hi w) (lo w) = w := by
  apply BitVec.eq_of_getLsbD_eq
  intro i h
  have : i < 8 ∨ ¬i < 8 := by omega
  rcases this with h8 | h8
  · simp [word, hi, lo, h8, h]
  · have e : i - 8 < 8 := by omega
    have e2 : 8 + (i - 8) = i := by omega
    simp [word, hi, lo, h8, h, e, e2]

theorem hi_word (a b : Byte) : hi (word a b) = a := by
  apply BitVec.eq_of_getLsbD_eq
  intro i h
  have e1 : 8 + i < 16 := by omega
  simp [word, hi, h, e1]

theorem lo_word (a b : Byte) : lo (word a b) = b := by
  apply BitVec.eq_of_getLsbD_eq
  intro i h
  simp [word, lo, h]

theorem byteOf_toNat (n : Nat) (h : n < 256) : (byteOf n).toNat = n := by simp [byteOf]; omega

theorem wordOf_toNat (n : Nat) (h : n < 65536) : (wordOf n).toNat = n := by simp [wordOf]; omega

end Sys2Proof.Machine
end

