-- ==== Sys2Proof/Laws/FrameSearch.lean ====
section
/-! SUPPORT. Laws of the frame search of the Link Port: whole frames, parts of frames, and bytes one by one. -/

namespace Sys2Proof.Machine

open Sys2Proof.Claims

/-- The search through the bytes of one frame finds that frame. -/
theorem search_frame (f : Frame) (h : f.payload.length ≤ 250) (n : Nat) : search (n+2) f.bytes = ⟨[f], 0, []⟩ := by
  have hlen : (byteOf (2 + f.payload.length)).toNat = 2 + f.payload.length := byteOf_toNat _ (by omega)
  have e : f.bytes = 0x5A :: byteOf (2 + f.payload.length) :: (f.kind :: f.seq :: f.payload ++ two (crc16 f.body))
    := by simp [Frame.bytes, Frame.body]
  rw [e, search]
  simp only [fromSync, List.dropWhile, bne_self_eq_false, hlen]
  rw [if_neg (by omega), if_neg (by simp [two]; omega)]
  have hb : (f.kind :: f.seq :: f.payload ++ two (crc16 f.body)).take (2 + f.payload.length) = f.kind :: f.seq ::
    f.payload := by
    rw [List.take_append_of_le_length (by simp; omega), List.take_of_length_le (by simp; omega)]
  have hd : (f.kind :: f.seq :: f.payload ++ two (crc16 f.body)).drop (2 + f.payload.length) = two (crc16 f.body)
    := by
    rw [List.drop_append_of_le_length (by simp; omega), List.drop_of_length_le (by simp; omega)]; rfl
  have hd2 : (f.kind :: f.seq :: f.payload ++ two (crc16 f.body)).drop (2 + f.payload.length + 2) = [] := by
    rw [← List.drop_drop, hd]; rfl
  rw [hb, hd, hd2]
  rw [if_pos (by rfl)]
  have : search (n+1) [] = ⟨[], 0, []⟩ := rfl
  rw [this]; rfl

/-- The search through part of a frame holds all of it. -/
theorem search_part (f : Frame) (h : f.payload.length ≤ 250) (a b : List Byte) (hb : b ≠ []) (hab :
    f.bytes = a ++ b) (ha : a ≠ []) (n : Nat) : search (n+1) a = ⟨[], 0, a⟩ := by
  have hlen : (byteOf (2 + f.payload.length)).toNat = 2 + f.payload.length := byteOf_toNat _ (by omega)
  have e : f.bytes = 0x5A :: byteOf (2 + f.payload.length) :: (f.kind :: f.seq :: f.payload ++ two (crc16 f.body))
    := by simp [Frame.bytes, Frame.body]
  have el : f.bytes.length = 6 + f.payload.length := by rw [e]; simp [two]; omega
  have el2 : a.length + b.length = 6 + f.payload.length := by rw [← el, hab]; simp
  have hb0 : 0 < b.length := List.length_pos_iff.2 hb
  rw [e] at hab
  match a, ha with
  | [x], _ => have : x = 0x5A := by simp at hab; exact hab.1.symm
              subst this; rfl
  | x :: y :: t, _ =>
    have hx : x = 0x5A := by simp at hab; exact hab.1.symm
    have hy : y = byteOf (2 + f.payload.length) := by simp at hab; exact hab.2.1.symm
    subst hx; subst hy
    rw [search]; simp only [fromSync, List.dropWhile, bne_self_eq_false, hlen]
    rw [if_neg (by omega), if_pos (by simp at el2; omega)]

theorem repeat_zero {α} (f : α → α) (a : α) : (0).repeat f a = a := rfl

/-- The search with as many rounds as there are bytes. -/
def searchAll (l : List Byte) : Search := search l.length l

/-- Two searches, one after the other. -/
def Search.join (r r' : Search) : Search := ⟨r.frames ++ r'.frames, r.discards + r'.discards, r'.held⟩

theorem fromSync_length (l : List Byte) : (fromSync l).length ≤ l.length := (List.dropWhile_sublist _).length_le

/-- More rounds than bytes find nothing more. -/
theorem search_enough : ∀ (n : Nat) (l : List Byte), l.length ≤ n → ∀ m, l.length ≤ m → search n l = search m l := by
  intro n
  induction n with
  | zero => intro l hl m _; have : l = [] := by cases l; rfl; simp at hl
            subst this; cases m <;> rfl
  | succ n ih =>
    intro l hl m hm
    cases m with
    | zero => have : l = [] := by cases l; rfl; simp at hm
              subst this; rfl
    | succ m =>
      have hf := fromSync_length l
      simp only [search]
      cases e : fromSync l with
      | nil => rfl
      | cons x t =>
        cases t with
        | nil => rfl
        | cons len t =>
          rw [e] at hf; simp at hf
          simp only
          rw [ih (len :: t) (by simp; omega) m (by simp; omega), ih (t.drop (len.toNat + 2)) (by simp; omega) m
            (by simp; omega)]

theorem search_eq_searchAll (n : Nat) (l : List Byte) (h : l.length ≤ n) : search n l = searchAll l :=
  search_enough n l h _ (Nat.le_refl _)

theorem searchAll_nil : searchAll [] = ⟨[], 0, []⟩ := rfl

theorem searchAll_eq (l : List Byte) : searchAll l = match fromSync l with
    | [] => { frames := [], discards := 0, held := [] }
    | [x] => { frames := [], discards := 0, held := [x] }
    | x :: len :: t =>
      if len.toNat < 2 ∨ 252 < len.toNat then (searchAll (len :: t)).discarding
      else if t.length < len.toNat + 2 then { frames := [], discards := 0, held := x :: len :: t }
      else
        let body := t.take len.toNat
        if two (crc16 (len :: body)) = (t.drop len.toNat).take 2 then
          (searchAll (t.drop (len.toNat + 2))).accepting (frameOf body)
        else (searchAll (len :: t)).discarding := by
  rw [← search_eq_searchAll (l.length + 1) l (by omega), search]
  have hf := fromSync_length l
  cases e : fromSync l with
  | nil => rfl
  | cons x t =>
    cases t with
    | nil => rfl
    | cons len t =>
      rw [e] at hf; simp at hf
      simp only
      rw [search_eq_searchAll _ (len :: t) (by simp; omega), search_eq_searchAll _ (t.drop _) (by simp; omega)]

theorem fromSync_append (l : List Byte) (c : Byte) : fromSync (l ++
    [c]) = if fromSync l = [] then fromSync [c] else fromSync l ++ [c] := by
  induction l with
  | nil => simp [fromSync]
  | cons a l ih =>
    by_cases h : a = 0x5A
    · simp [fromSync, h]
    · have e : ∀ l', fromSync (a :: l') = fromSync l' := fun l' => by unfold fromSync; rw [List.dropWhile_cons_of_pos (by simpa using h)]
      rw [List.cons_append, e, e]; exact ih

theorem fromSync_head (l : List Byte) (x t) (h : fromSync l = x :: t) : x = 0x5A := by
  have := List.head?_dropWhile_not (fun b => b != (0x5A : Byte)) l
  unfold fromSync at h; rw [h] at this; simpa using this

theorem fromSync_sync (x : Byte) (t) (h : x = 0x5A) : fromSync (x :: t) = x :: t := by subst h; rfl

theorem Search.join_discarding (r r' : Search) : Search.join r.discarding r' = (Search.join r r').discarding := by
  simp [Search.join, Search.discarding, Nat.add_right_comm]

theorem Search.join_accepting (r r' : Search) (f) : Search.join (r.accepting f) r' = (Search.join r r').accepting f
  := by
  simp [Search.join, Search.accepting]

theorem Search.join_empty (h) (r' : Search) : Search.join ⟨[], 0, h⟩ r' = r' := by simp [Search.join]

/-- Searching one byte more is searching the bytes held and that byte. -/
theorem searchAll_append : ∀ (n : Nat) (l : List Byte), l.length ≤ n → ∀ c, searchAll (l ++
    [c]) = Search.join (searchAll l) (searchAll ((searchAll l).held ++ [c])) := by
  intro n
  induction n with
  | zero => intro l hl c; have : l = [] := by cases l; rfl; simp at hl
            subst this; rw [searchAll_nil, Search.join_empty]
  | succ n ih =>
    intro l hl c
    have hf := fromSync_length l
    have hap := fromSync_append l c
    cases e : fromSync l with
    | nil =>
      rw [e] at hap; simp only [if_true] at hap
      have e1 : searchAll l = ⟨[], 0, []⟩ := by rw [searchAll_eq, e]
      rw [e1, Search.join_empty, searchAll_eq (l ++ [c]), hap, searchAll_eq ([] ++ [c])]; rfl
    | cons x t =>
      have hx := fromSync_head l x t e
      rw [e] at hap; simp only [reduceCtorEq, if_false] at hap
      rw [e] at hf
      cases t with
      | nil =>
        have e1 : searchAll l = ⟨[], 0, [x]⟩ := by rw [searchAll_eq, e]
        rw [e1, Search.join_empty, searchAll_eq (l ++ [c]), hap, searchAll_eq ([x] ++ [c]), show fromSync ([x] ++ [c]) = [x] ++ [c] from fromSync_sync x _ hx]
      | cons len t =>
        simp at hf
        have e0 : searchAll l = if len.toNat < 2 ∨ 252 < len.toNat then (searchAll (len :: t)).discarding
            else if t.length < len.toNat + 2 then { frames := [], discards := 0, held := x :: len :: t }
            else if two (crc16 (len :: t.take len.toNat)) = (t.drop len.toNat).take 2 then
                (searchAll (t.drop (len.toNat + 2))).accepting (frameOf (t.take len.toNat))
              else (searchAll (len :: t)).discarding := by rw [searchAll_eq, e]
        have e1 : searchAll (l ++ [c]) = if len.toNat < 2 ∨ 252 < len.toNat then (searchAll (len :: t ++
          [c])).discarding
            else if (t ++ [c]).length < len.toNat + 2 then { frames := [], discards := 0, held := x :: len :: (t ++ [c]) }
            else if two (crc16 (len :: (t ++ [c]).take len.toNat)) = ((t ++ [c]).drop len.toNat).take 2 then
                (searchAll ((t ++ [c]).drop (len.toNat + 2))).accepting (frameOf ((t ++ [c]).take len.toNat))
              else (searchAll (len :: t ++ [c])).discarding := by rw [searchAll_eq, hap]; rfl
        by_cases h1 : len.toNat < 2 ∨ 252 < len.toNat
        · rw [if_pos h1] at e0 e1
          rw [e1, e0, Search.join_discarding, ih (len :: t) (by simp; omega) c]; rfl
        · rw [if_neg h1] at e0 e1
          by_cases h2 : t.length < len.toNat + 2
          · rw [if_pos h2] at e0
            rw [e0, Search.join_empty, searchAll_eq (l ++ [c]), hap, searchAll_eq (x :: len :: t ++ [c]),
              show fromSync (x :: len :: t ++ [c]) = x :: len :: t ++ [c] from fromSync_sync x _ hx]
          · rw [if_neg h2] at e0
            rw [if_neg (by simp; omega)] at e1
            have t1 : (t ++ [c]).take len.toNat = t.take len.toNat := List.take_append_of_le_length (by omega)
            have t2 : ((t ++ [c]).drop len.toNat).take 2 = (t.drop len.toNat).take 2 := by
              rw [List.drop_append_of_le_length (by omega), List.take_append_of_le_length (by simp; omega)]
            have t3 : (t ++ [c]).drop (len.toNat + 2) = t.drop (len.toNat + 2) ++ [c] :=
              List.drop_append_of_le_length (by omega)
            rw [t1, t2, t3] at e1
            split at e0 <;> rename_i h3
            · rw [if_pos h3] at e1
              rw [e1, e0, Search.join_accepting, ih (t.drop (len.toNat + 2)) (by simp; omega) c]; rfl
            · rw [if_neg h3] at e1
              rw [e1, e0, Search.join_discarding, ih (len :: t) (by simp; omega) c]; rfl

theorem repeat_repeat {α} (f : α → α) (m n : Nat) (a : α) : n.repeat f (m.repeat f a) = (m+n).repeat f a := by
  induction n with
  | zero => rfl
  | succ n ih => show f _ = f ((m + n).repeat f a); rw [← ih]

theorem State.takeSearch_takeSearch (v : State) (r r' : Search) :
    (v.takeSearch r).takeSearch r' = v.takeSearch (Search.join r r') := by
  ext1 <;> simp only [State.takeSearch, State.setPort, State.setDeviceCounters, DeviceCounters.accept,
    DeviceCounters.discard, Search.join, repeat_repeat, List.length_append, List.append_assoc] <;> rfl

/-- Bytes that arrive one by one are searched as if all were held. -/
theorem State.arrives_takeSearch (v : State) : ∀ (l pre : List Byte), Arrives l (v.takeSearch (searchAll pre))
    (v.takeSearch (searchAll (pre ++ l))) := by
  intro l
  induction l with
  | nil => intro pre; simp [Arrives]
  | cons c l ih =>
    intro pre
    refine ⟨v.takeSearch (searchAll (pre ++ [c])), ?_, ?_⟩
    · show Host.Outcome.next _ = _
      have hb : (v.takeSearch (searchAll pre)).port.buffer = (searchAll pre).held := rfl
      rw [State.receive, hb, search_eq_searchAll _ _ (by simp), State.takeSearch_takeSearch,
        ← searchAll_append _ pre (Nat.le_refl _)]
    · have := ih (pre ++ [c]); rwa [List.append_assoc] at this

theorem State.takeSearch_discarding (s : State) (r : Search) :
    s.takeSearch r.discarding = (searching s).takeSearch r := by
  have e : ((s.counters.device.accept r.frames.length).discard (r.discards + 1)) = ((framesCounted
    s.counters.device 0 1).accept r.frames.length).discard r.discards := by
    simp only [DeviceCounters.accept, DeviceCounters.discard, framesCounted, repeat_repeat, repeat_zero,
      Nat.add_comm 1]
  unfold State.takeSearch
  rw [show (s.counters.device.accept r.discarding.frames.length).discard r.discarding.discards = _ from e]
  rfl

/-- After a discard the bytes held are searched as if they arrived again (R149). -/
theorem State.arrives_again (s : State) (l : List Byte) : Arrives l (searching s)
    (s.takeSearch (searchAll l).discarding) := by
  rw [State.takeSearch_discarding]
  have := State.arrives_takeSearch (searching s) l []
  have e : (searching s).takeSearch (searchAll []) = searching s := by
    rw [searchAll_nil]; ext1 <;> simp [State.takeSearch, searching, State.setPort, State.setDeviceCounters,
      DeviceCounters.accept, DeviceCounters.discard, repeat_zero]
  rwa [e] at this

end Sys2Proof.Machine
end

