-- ==== Sys2Proof/Laws/Requests.lean ====
section
/-! SUPPORT. How a frame goes through the steps of R154: one lemma for each way it can be settled, and one for a request that
is executed. -/

namespace Sys2Proof.Machine

/-! ## Taking the frame -/

/-- A frame taken changes only the accepted frames that wait. -/
theorem State.popArrival_eq (s : State) (f : Frame) :
    s.popArrival f =
      s.setPort
        { s.port with
          arrivals := if s.port.arrivals.head? = some f then s.port.arrivals.tail else s.port.arrivals } := by
  unfold State.popArrival
  split
  · next g t h =>
    by_cases hg : g = f
    · simp [h, hg]
    · simp only [h, hg, if_false, List.head?_cons, Option.some.injEq]
      exact (congrArg (fun l => s.setPort { s.port with arrivals := l }) h).symm ▸ rfl
  · next h =>
    simp only [h, List.head?_nil, reduceCtorEq, if_false]
    exact (congrArg (fun l => s.setPort { s.port with arrivals := l }) h).symm ▸ rfl

@[simp] theorem State.popArrival_frame (s : State) (f : Frame) :
    (s.popArrival f).pending = s.pending ∧ (s.popArrival f).bays = s.bays ∧ (s.popArrival f).engine = s.engine ∧
    (s.popArrival f).jobs = s.jobs ∧ (s.popArrival f).lastServed = s.lastServed ∧
    (s.popArrival f).reporter = s.reporter ∧ (s.popArrival f).handler = s.handler ∧
    (s.popArrival f).transmitter = s.transmitter ∧ (s.popArrival f).config = s.config ∧
    (s.popArrival f).counters = s.counters ∧ (s.popArrival f).blink = s.blink ∧
    (s.popArrival f).handed = s.handed ∧ (s.popArrival f).freeDraws = s.freeDraws ∧
    (∀ c, (s.popArrival f).bay c = s.bay c) ∧ (∀ i, (s.popArrival f).slot i = s.slot i) ∧
    (∀ c, (s.popArrival f).queue c = s.queue c) ∧ (∀ m, (s.popArrival f).source m = s.source m) ∧
    (∀ c, (s.popArrival f).bayConfig c = s.bayConfig c) ∧
    (∀ c, (s.popArrival f).bayCounters c = s.bayCounters c) ∧ (∀ m, (s.popArrival f).mask m = s.mask m) ∧
    (∀ c, (s.popArrival f).liveCount c = s.liveCount c) := by
  rw [State.popArrival_eq]; simp

/-- A link that is not STALLED stays as it is. -/
theorem State.takeFrame_eq (s : State) (f : Frame) (h : s.handler.link ≠ .stalled) :
    s.takeFrame f = s.popArrival f := by
  simp [State.takeFrame, State.unstall, h]

/-- A STALLED link becomes UP, its unacknowledged entries due (R176). -/
theorem State.takeFrame_stalled (s : State) (f : Frame) (h : s.handler.link = .stalled) :
    s.takeFrame f =
      (State.takeFrame
        { s with
          handler := { s.handler with link := .up },
          transmitter := { s.transmitter with
            unacked := s.transmitter.unacked.map fun u => { u with due := true }, retries := 0 } } f) := by
  ext1 <;> simp [State.takeFrame, State.unstall, h, Transmitter.allDue, State.popArrival_eq, Unacked.markDue]

/-! ## How a frame is settled -/

/-- No cached reply has the SEQ. -/
theorem State.cached?_none (s : State) (q : Byte) (h : ∀ e ∈ s.handler.cache, e.seq ≠ q) : s.cached? q = none := by
  simpa [State.cached?] using h

theorem State.cached?_some (s : State) (q : Byte) (pre post : List CacheEntry) (e : CacheEntry)
    (hc : s.handler.cache = pre ++ e :: post) (he : e.seq = q) (h : ∀ x ∈ pre, x.seq ≠ q) :
    s.cached? q = some e.reply := by
  have : s.handler.cache.find? (fun c => c.seq == q) = some e := by
    rw [hc, List.find?_append, List.find?_eq_none.mpr (by simpa using h)]
    simp [he]
  simp [State.cached?, this]

/-- A request that is executed reaches its owning block, or is answered BAD-LENGTH (R154 step 7, R155). -/
theorem State.request_executed (s : State) (f : Frame) (good : Bool) (serve : State → Served)
    (hl : s.handler.link = .up) (hr : s.handler.replies.length < 8) (hc : ∀ e ∈ s.handler.cache, e.seq ≠ f.seq) :
    s.request f good serve =
      if good then (serve (s.popArrival f)).1.answer f (f.reply (serve (s.popArrival f)).2.1 (serve (s.popArrival f)).2.2)
      else (s.popArrival f).answer f (f.reply .badLength []) := by
  have h1 : s.takeFrame f = s.popArrival f := s.takeFrame_eq f (by simp [hl])
  have h2 : (s.popArrival f).settled? f = none := by
    have hf : (s.popArrival f).repliesFull = false := by simp [State.repliesFull, hr]
    have hn : (s.popArrival f).cached? f.seq = none := State.cached?_none _ _ (by simpa using hc)
    simp [State.settled?, hf, hl, hn]
  simp only [State.request, h1, h2]

/-- A frame that finds the reply queue full is dropped (R154 step 3). -/
theorem State.settled?_full (s : State) (f : Frame) (h : 8 ≤ s.handler.replies.length) :
    s.settled? f = some s.dropFrame := by
  simp [State.settled?, State.repliesFull, h]

/-- A request with the link DOWN is answered NO-SESSION (R154 step 5). -/
theorem State.settled?_down (s : State) (f : Frame) (hr : s.handler.replies.length < 8) (hl : s.handler.link = .down) :
    s.settled? f = some (s.queueReply f.noSession false) := by
  have hf : s.repliesFull = false := by simp [State.repliesFull, hr]
  simp [State.settled?, hf, hl]

/-- A duplicate is answered from the cache (R154 step 6). -/
theorem State.settled?_cached (s : State) (f r : Frame) (hr : s.handler.replies.length < 8)
    (hl : s.handler.link = .up) (hc : s.cached? f.seq = some r) : s.settled? f = some (s.answerDuplicate r) := by
  have hf : s.repliesFull = false := by simp [State.repliesFull, hr]
  simp [State.settled?, hf, hl, hc]

/-- The reply of an executed request: the cache and the reply queue, and nothing else (R154 step 7, R156, R157). -/
theorem State.answer_eq (s : State) (f r : Frame) :
    s.answer f r =
      { s with
        handler :=
          { s.handler with
            cache := evict s.handler.cache ++ [⟨f.seq, r⟩], replies := s.handler.replies ++ [⟨r, false⟩] } } := rfl

end Sys2Proof.Machine
end

