-- ==== Sys2Proof/Laws/Jobs.lean ====
section
/-! SUPPORT. Laws of jobs, tags, slots, bay instructions and the identity record, in the words of the statements. -/

namespace Sys2Proof.Machine

open Sys2Proof.Claims

theorem State.countTimeout_eq (s : State) (b x) : s.countTimeout b x = timeoutCounted s b x := by
  cases x <;> rfl

/-- A record in the layout of R82 is read as its parts. -/
theorem identityOf?_record (d : Identity) (check : Byte) (rest : List Byte) (h1 : d.serial.length ≤ 16) (h2 :
  d.channelMap.getLsbD 15 = false) (h3 : d.channelMap ≠ 0)
    (record : List Byte) (hr : record = [0x01, hi d.moduleClass, lo d.moduleClass, d.revision, hi d.channelMap,
      lo d.channelMap,
      byteOf d.serial.length] ++ d.serial ++ [check]) (hs : record.foldl (· + ·) (0 : Byte) = 0) : identityOf? (8 +
        d.serial.length) (record ++ rest) = some d := by
  have hl : (byteOf d.serial.length).toNat = d.serial.length := by simp [byteOf]; omega
  have hw : ∀ w : Word16, word (hi w) (lo w) = w := word_hi_lo
  have hrl : record.length = 8 + d.serial.length := by rw [hr]; simp; omega
  have ht : (record ++ rest).take (8 + d.serial.length) = record := by rw [← hrl]; simp
  have b0 : ∀ i, i < 8 → byteAt (record ++ rest) i = if i < 7 then [0x01, hi d.moduleClass, lo d.moduleClass,
    d.revision, hi d.channelMap, lo d.channelMap, byteOf d.serial.length].getD i 0 else byteAt (record ++ rest) i
    := by
    intro i hi; split
    · rename_i h; subst hr
      interval_cases i <;> rfl
    · rfl
  have f : ∀ i v, i < 7 → [0x01, hi d.moduleClass, lo d.moduleClass, d.revision, hi d.channelMap, lo d.channelMap,
    byteOf d.serial.length].getD i 0 = v → byteAt (record ++ rest) i = v := by
    intro i v hi hv; rw [b0 i (by omega), if_pos hi]; exact hv
  have e0 := f 0 _ (by omega) rfl
  have e1 := f 1 _ (by omega) rfl
  have e2 := f 2 _ (by omega) rfl
  have e3 := f 3 _ (by omega) rfl
  have e4 := f 4 _ (by omega) rfl
  have e5 := f 5 _ (by omega) rfl
  have e6 := f 6 _ (by omega) rfl
  have hm : wordAt (record ++ rest) 4 = d.channelMap := by rw [wordAt, e4, e5]; exact hw _
  have hc : wordAt (record ++ rest) 1 = d.moduleClass := by rw [wordAt, e1, e2]; exact hw _
  simp only [List.getD_cons_succ, List.getD_cons_zero] at e0 e3 e6
  simp only [identityOf?, e0, e3, e6, hl, hm, hc, ht]
  rw [if_pos ⟨by omega, h1, by trivial, by trivial, h2, h3, hs⟩]
  have : ((record ++ rest).drop 7).take d.serial.length = d.serial := by
    subst hr; simp
  rw [this]

/-- The end of a job, whole (R94, R95). -/
theorem State.endJob_spec (s : State) (j : SlotNo) (st o n) : JobEnds j st o n s (s.endJob j st o n) := by
  refine ⟨?_, by simp, fun i h => by rw [State.endJob_slot]; simp [h], ?_, ?_, ?_, by simp, ?_, ?_⟩
  · ext1 <;> simp [State.endJob_transmitter, State.endJob_handed]
  · rw [State.endJob_slot]; simp [Slot.ended]; split
    · rfl
    · cases (s.slot j).kind <;> rfl
  · rw [State.endJob_queue]; simp
  · intro c h; rw [State.endJob_queue]; simp [h]
  · intro c h; rw [State.endJob_bayCounters]; simp [h]
  · rw [State.endJob_bayCounters]; simp [BayCounters.jobEnded]

theorem AbortMark.status_eq (m : AbortMark) : m.status = markStatus m := by cases m <;> rfl

theorem wordAt_hi_lo (tag : Word16) : wordAt [hi tag, lo tag] 0 = tag := by simp [wordAt, byteAt, word_hi_lo]

theorem State.findTag_none (s : State) (tag) (h : ∀ j, ¬Carries s j tag) : s.findTag tag = none := by
  rw [State.findTag, List.find?_eq_none]
  intro j _ hj
  apply h j
  simpa [Slot.findable, Carries, and_assoc] using hj

theorem State.findTag_some (s : State) (tag) (j) (hd : s.TagsDistinct) (h : Carries s j tag) :
    s.findTag tag = some j := by
  have hf : ∀ i, Carries s i tag ↔ ((s.slot i).findable && decide ((s.slot i).tag = tag)) = true := by
    intro i; simp [Slot.findable, Carries, and_assoc]
  cases e : s.findTag tag with
  | none =>
    rw [State.findTag, List.find?_eq_none] at e
    exact absurd ((hf j).1 h) (e j (List.mem_finRange j))
  | some i =>
    have hi := List.find?_some e
    have hi' := (hf i).2 hi
    have : i = j := by
      apply hd i j
      · simp [Slot.findable, hi'.1, hi'.2.1]
      · simp [Slot.findable, h.1, h.2.1]
      · rw [hi'.2.2, h.2.2]
    rw [this]

theorem State.findTag_popArrival (s : State) (f tag) : (s.popArrival f).findTag tag = s.findTag tag := by
  simp [State.findTag]

theorem State.freeSlot?_none (s : State) : s.freeSlot? = none ↔ ∀ i, (s.slot i).state ≠ .free := by
  rw [State.freeSlot?, List.find?_eq_none]; simp

theorem finRange_find?_first {n : Nat} (p : Fin n → Bool) (j : Fin n) (hj : p j = true) (h : ∀ i, i < j →
    p i = false) : (List.finRange n).find? p = some j := by
  rw [List.find?_eq_some_iff_append]
  refine ⟨hj, (List.finRange n).take j.val, (List.finRange n).drop (j.val+1), ?_, ?_⟩
  · conv_lhs => rw [← List.take_append_drop j.val (List.finRange n)]
    congr 1
    rw [List.drop_eq_getElem_cons (by simp)]; simp
  · intro a ha
    rw [List.mem_take_iff_getElem] at ha
    obtain ⟨k, hk, rfl⟩ := ha
    have := h ⟨k, by simp at hk; omega⟩ (by simp at hk; exact Fin.lt_def.2 (by simp; omega))
    simpa using this

theorem State.freeSlot?_some (s : State) (j) (h1 : (s.slot j).state = .free) (h2 : ∀ i,
  i < j → (s.slot i).state ≠ .free) : s.freeSlot? = some j :=
  finRange_find?_first _ j (by simp [h1]) (fun i hi => by simp [h2 i hi])

theorem Bay.offers_iff (r : Bay) (ch : Byte) : r.offers ch = true ↔ ∃ d, r.identity = some d ∧
    d.channelMap.getLsbD ch.toNat = true := by
  unfold Bay.offers; cases r.identity <;> simp

theorem State.findTag_isSome (s : State) (tag) : (s.findTag tag).isSome = true ↔ ∃ i, Carries s i tag := by
  constructor
  · intro h; by_contra hn; rw [State.findTag_none s tag (not_exists.1 hn)] at h; simp at h
  · rintro ⟨i, hi⟩
    cases e : s.findTag tag with
    | some j => rfl
    | none =>
      rw [State.findTag, List.find?_eq_none] at e
      exact absurd (by simpa [Slot.findable, Carries, and_assoc] using hi) (e i (List.mem_finRange i))

/-- The WAITING jobs of a queue end one after another: slots, queues, notices (R103). -/
theorem endJobs_spec (st : JobStatus) : ∀ (l : List SlotNo) (s : State) (b : BayNo), l.Nodup → (∀ j ∈ l,
  (s.slot j).bay = b ∧ (s.slot j).orphan = false) →
    let t := l.foldl (fun t j => t.endJob j st 0 0) s
    (∀ j, t.slot j = if j ∈ l then (s.slot j).ended st 0 0 else s.slot j) ∧
    t.queue b = (s.queue b).filter (fun i => !l.contains i) ∧ (∀ c, c ≠ b → t.queue c = s.queue c) ∧
    t.transmitter = { s.transmitter with pending := s.transmitter.pending ++ l.map .jobDone } ∧ t.jobs.pool =
      s.jobs.pool := by
  intro l
  induction l with
  | nil => intro s b _ _; refine ⟨fun j => by simp, by simp, fun c _ => rfl, by simp, rfl⟩
  | cons a l ih =>
    intro s b hn hb t
    have hna := List.nodup_cons.1 hn
    have ha := hb a (by simp)
    have hsl : ∀ i, (s.endJob a st 0 0).slot i = if i = a then (s.slot a).ended st 0 0 else s.slot i := fun i =>
      State.endJob_slot _ _ _ _ _ _
    have hla : ∀ j ∈ l, j ≠ a := fun j hj e => hna.1 (e ▸ hj)
    obtain ⟨i1, i2, i3, i4, i5⟩ := ih (s.endJob a st 0 0) b hna.2 (fun j hj => by rw [hsl, if_neg (hla j hj)]; exact hb j (by simp [hj]))
    refine ⟨?_, ?_, ?_, ?_, ?_⟩
    · intro j; refine (i1 j).trans ?_
      rw [hsl]
      by_cases h1 : j = a
      · subst h1; simp [hna.1]
      · simp [h1]
    · refine i2.trans ?_
      rw [State.endJob_queue, if_pos ha.1.symm, List.filter_filter]
      apply List.filter_congr; intro i _
      simp [Bool.and_comm, bne]; rfl
    · intro c hc; refine (i3 c hc).trans ?_
      rw [State.endJob_queue, if_neg (by rw [ha.1]; exact hc)]
    · refine i4.trans ?_
      rw [State.endJob_transmitter, ha.2]; simp
    · refine i5.trans ?_; simp

theorem State.activeOf?_some (s : State) (b) (j) (h1 : s.OneActive) (ha : (s.slot j).state = .active) (hb :
    (s.slot j).bay = b) : s.activeOf? b = some j := by
  cases e : s.activeOf? b with
  | none => rw [State.activeOf?, List.find?_eq_none] at e; exact absurd (by simp [ha, hb]) (e j (List.mem_finRange j))
  | some i =>
    have := List.find?_some e
    simp at this
    rw [h1 i j this.1 ha]

theorem State.activeOf?_none (s : State) (b) (h : ∀ j, (s.slot j).bay = b → (s.slot j).state ≠ .active) :
    s.activeOf? b = none := by
  rw [State.activeOf?, List.find?_eq_none]; intro j _; simp; intro h1 h2; exact h j h2 h1

theorem State.abandon_jobs (s : State) (w) : (∀ j, (s.abandon w).slot j = s.slot j) ∧
    (∀ c, (s.abandon w).queue c = s.queue c) ∧ (s.abandon w).transmitter = s.transmitter ∧
    (s.abandon w).jobs.pool = s.jobs.pool := by
  simp [State.abandon, State.runEngine, State.handAll, State.setEngine, State.slot, State.queue]

/-- The disposal of the ACTIVE job (R103). -/
theorem State.disposeJob_spec (s : State) (j : SlotNo) (i : BayInstruction) :
    let t := s.disposeJob j i
    (∀ k, t.slot k = if k = j then { s.slot j with mark := if (s.slot j).mark.isSome then (s.slot j).mark else
      i.mark } else s.slot k) ∧
    (∀ c, t.queue c = s.queue c) ∧ t.transmitter = s.transmitter ∧ t.jobs.pool = s.jobs.pool ∧ (i = .bayOff →
      t.engine = s.engine) := by
  have hm : ∀ m, (s.slot j).marked m = { s.slot j with mark := if (s.slot j).mark.isSome then (s.slot j).mark else
    m } := by
    intro m; unfold Slot.marked; cases (s.slot j).mark <;> rfl
  intro t
  have self : ∀ k, s.slot k = if k = j then s.slot j else s.slot k := by intro k; split; rename_i h; rw [h]; rfl
  cases i
  case bayOff =>
    refine ⟨?_, fun c => rfl, rfl, rfl, fun _ => rfl⟩
    intro k; refine (self k).trans ?_
    congr 1
    have : (s.slot j).mark = if (s.slot j).mark.isSome then (s.slot j).mark else none := by cases (s.slot j).mark
      <;> rfl
    exact congrArg (fun m => { s.slot j with mark := m }) this
  case bayReset =>
    by_cases h : (s.slot j).mark.isNone
    · have : t = (s.setSlot j ((s.slot j).marked (some .bayReset))).hand (.abortRequest (.job j)) := by
        simp only [t, State.disposeJob, BayInstruction.disposal, BayInstruction.mark, h, if_true]
      rw [this]
      refine ⟨?_, fun c => by simp, by simp, rfl, fun h => nomatch h⟩
      intro k; simp [State.setSlot_slot, hm, BayInstruction.mark]
    · have : t = s := by
        simp only [t, State.disposeJob, BayInstruction.disposal]; rw [if_neg h]
      rw [this]
      refine ⟨?_, fun c => rfl, rfl, rfl, fun h => nomatch h⟩
      intro k; refine (self k).trans ?_; congr 1
      have hs : (s.slot j).mark.isSome := by cases e : (s.slot j).mark; simp [e] at h; rfl
      simp [hs]
  all_goals
    have : t = (s.setSlot j ((s.slot j).marked _)).abandon (.job j) := rfl
    rw [this]
    obtain ⟨a1, a2, a3, a4⟩ := State.abandon_jobs (s.setSlot j ((s.slot j).marked _)) (.job j)
    refine ⟨?_, fun c => by rw [a2]; simp, by rw [a3]; simp, by rw [a4]; rfl, fun h => nomatch h⟩
    intro k; rw [a1]; simp [State.setSlot_slot, hm, BayInstruction.mark]

theorem repeat_succ_inner {α} (f : α → α) (n : Nat) (a : α) : (n+1).repeat f a = n.repeat f (f a) := by
  induction n with
  | zero => rfl
  | succ n ih => show f ((n+1).repeat f a) = _; rw [ih]; rfl

/-- The WAITING jobs of a queue end one after another: counters and reports (R91, R183). -/
theorem endJobs_counters (st : JobStatus) (hst : st ≠ .done) (b : BayNo) : ∀ (l : List SlotNo) (s : State),
  l.Nodup → (∀ j ∈ l, (s.slot j).bay = b ∧ (s.slot j).orphan = false) →
    let t := l.foldl (fun t j => t.endJob j st 0 0) s
    t.handed.filter (fun r => !r.isLiveCountOf b) = s.handed.filter (fun r => !r.isLiveCountOf b) ∧
    (∀ c, c ≠ b → t.bayCounters c = s.bayCounters c) ∧
    t.bayCounters b = { s.bayCounters b with jobsEnded := l.length.repeat advance (s.bayCounters b).jobsEnded } := by
  intro l
  induction l with
  | nil => intro s _ _; exact ⟨rfl, fun _ _ => rfl, rfl⟩
  | cons a l ih =>
    intro s hn hb t
    have hna := List.nodup_cons.1 hn
    have ha := hb a (by simp)
    have hsl : ∀ i, (s.endJob a st 0 0).slot i = if i = a then (s.slot a).ended st 0 0 else s.slot i := fun i =>
      State.endJob_slot _ _ _ _ _ _
    have hla : ∀ j ∈ l, j ≠ a := fun j hj e => hna.1 (e ▸ hj)
    obtain ⟨i1, i2, i3⟩ := ih (s.endJob a st 0 0) hna.2 (fun j hj => by rw [hsl, if_neg (hla j hj)]; exact hb j (by simp [hj]))
    refine ⟨?_, ?_, ?_⟩
    · refine i1.trans ?_
      rw [State.endJob_handed]; simp [ha.1, Report.isLiveCountOf]
    · intro c hc; refine (i2 c hc).trans ?_
      rw [State.endJob_bayCounters, if_neg (by rw [ha.1]; exact hc)]
    · refine i3.trans ?_
      rw [State.endJob_bayCounters, if_pos ha.1.symm]
      simp only [BayCounters.jobEnded, if_neg hst, List.length_cons, repeat_succ_inner]

end Sys2Proof.Machine
end

