-- ==== Sys2Proof/Laws/Line.lean ====
section
/-! SUPPORT. Laws of LINK_TX: what a frame boundary and the start of a frame on an idle line leave as they are, and that no
frame waits on an idle line after either. -/

namespace Sys2Proof.Machine

/-! ## What a boundary leaves as it is -/

/-- The owner's part of a first send: one slot's state, or one source's record (R169). -/
@[simp] theorem State.ownerSent_frame (s : State) (x : Notice) :
    (s.ownerSent x).pending = s.pending ∧ (s.ownerSent x).bays = s.bays ∧ (s.ownerSent x).engine = s.engine ∧
    (s.ownerSent x).jobs.queues = s.jobs.queues ∧ (s.ownerSent x).jobs.pool = s.jobs.pool ∧
    (s.ownerSent x).lastServed = s.lastServed ∧ (s.ownerSent x).handler = s.handler ∧ (s.ownerSent x).port = s.port ∧
    (s.ownerSent x).transmitter = s.transmitter ∧ (s.ownerSent x).config = s.config ∧
    (s.ownerSent x).counters = s.counters ∧ (s.ownerSent x).blink = s.blink ∧ (s.ownerSent x).handed = s.handed ∧
    (s.ownerSent x).freeDraws = s.freeDraws ∧ (∀ j, ((s.ownerSent x).slot j).blocks = (s.slot j).blocks) := by
  cases x with
  | jobDone j =>
    refine ⟨rfl, rfl, rfl, rfl, rfl, rfl, rfl, rfl, rfl, rfl, rfl, rfl, rfl, rfl, fun i => ?_⟩
    by_cases h : i = j
    · subst h; simp [State.ownerSent]
    · simp [State.ownerSent, h]
  | event n => exact ⟨rfl, rfl, rfl, rfl, rfl, rfl, rfl, rfl, rfl, rfl, rfl, rfl, rfl, rfl, fun _ => rfl⟩

/-- A boundary touches the reply queue, the notice lists with their owners, one counter and the frame on LINK_TX (R164, R169,
R170). -/
@[simp] theorem State.boundary_frame (s : State) :
    s.boundary.pending = s.pending ∧ s.boundary.bays = s.bays ∧ s.boundary.engine = s.engine ∧
    s.boundary.jobs.queues = s.jobs.queues ∧ s.boundary.jobs.pool = s.jobs.pool ∧
    s.boundary.lastServed = s.lastServed ∧ s.boundary.config = s.config ∧ s.boundary.counters.bays = s.counters.bays ∧
    s.boundary.blink = s.blink ∧ s.boundary.handed = s.handed ∧ s.boundary.freeDraws = s.freeDraws ∧
    s.boundary.handler.link = s.handler.link ∧ s.boundary.handler.cache = s.handler.cache ∧
    (∀ c, s.boundary.bay c = s.bay c) ∧ (∀ c, s.boundary.queue c = s.queue c) ∧
    (∀ j, (s.boundary.slot j).blocks = (s.slot j).blocks) := by
  unfold State.boundary
  split
  · exact ⟨rfl, rfl, rfl, rfl, rfl, rfl, rfl, rfl, rfl, rfl, rfl, rfl, rfl, fun _ => rfl, fun _ => rfl, fun _ => rfl⟩
  · unfold State.offerNotice
    split
    · split
      · exact ⟨rfl, rfl, rfl, rfl, rfl, rfl, rfl, rfl, rfl, rfl, rfl, rfl, rfl, fun _ => rfl, fun _ => rfl, fun _ => rfl⟩
      · split
        · split
          · next x rest _ =>
            obtain ⟨h1, h2, h3, h4, h5, h6, h7, _, _, h10, h11, h12, h13, h14, h15⟩ :=
              State.ownerSent_frame (s.setTransmitter { s.transmitter with
                pending := rest, unacked := s.transmitter.unacked ++ [⟨x, s.transmitter.next, false⟩],
                next := s.transmitter.next + 1, ackTimer := none }) x
            exact ⟨h1, h2, h3, h4, h5, h6, h10, congrArg Counters.bays h11, h12, h13, h14, congrArg Handler.link h7,
              congrArg Handler.cache h7, fun c => congrArg (fun v : Vector Bay 8 => v[c]) h2,
              fun c => congrArg (fun v : Vector (List SlotNo) 8 => v[c]) h4, h15⟩
          · exact ⟨rfl, rfl, rfl, rfl, rfl, rfl, rfl, rfl, rfl, rfl, rfl, rfl, rfl, fun _ => rfl, fun _ => rfl, fun _ => rfl⟩
        · exact ⟨rfl, rfl, rfl, rfl, rfl, rfl, rfl, rfl, rfl, rfl, rfl, rfl, rfl, fun _ => rfl, fun _ => rfl, fun _ => rfl⟩
    · exact ⟨rfl, rfl, rfl, rfl, rfl, rfl, rfl, rfl, rfl, rfl, rfl, rfl, rfl, fun _ => rfl, fun _ => rfl, fun _ => rfl⟩

/-! ## An idle line -/

/-- A busy line goes on (R164). -/
theorem State.fillLine_busy (s : State) (h : s.port.sending.isSome) : s.fillLine = s := by
  simp [State.fillLine, Option.isNone_iff_eq_none, Option.isSome_iff_ne_none.mp h]

/-- An idle line takes a boundary (R164). -/
theorem State.fillLine_idle (s : State) (h : s.port.sending = none) : s.fillLine = s.boundary := by
  simp [State.fillLine, h]

/-- What a frame started on an idle line leaves as it is. -/
@[simp] theorem State.fillLine_frame (s : State) :
    s.fillLine.pending = s.pending ∧ s.fillLine.bays = s.bays ∧ s.fillLine.engine = s.engine ∧
    s.fillLine.jobs.queues = s.jobs.queues ∧ s.fillLine.jobs.pool = s.jobs.pool ∧
    s.fillLine.lastServed = s.lastServed ∧ s.fillLine.config = s.config ∧ s.fillLine.counters.bays = s.counters.bays ∧
    s.fillLine.blink = s.blink ∧ s.fillLine.handed = s.handed ∧ s.fillLine.freeDraws = s.freeDraws ∧
    s.fillLine.handler.link = s.handler.link ∧ s.fillLine.handler.cache = s.handler.cache ∧
    (∀ c, s.fillLine.bay c = s.bay c) ∧ (∀ c, s.fillLine.queue c = s.queue c) ∧
    (∀ j, (s.fillLine.slot j).blocks = (s.slot j).blocks) := by
  unfold State.fillLine
  split
  · exact s.boundary_frame
  · exact ⟨rfl, rfl, rfl, rfl, rfl, rfl, rfl, rfl, rfl, rfl, rfl, rfl, rfl, fun _ => rfl, fun _ => rfl, fun _ => rfl⟩

/-! ## No frame waits on an idle line -/

/-- Whether a frame waits on an idle line is read from the frame on LINK_TX, the Request Handler and the Notice
Transmitter. -/
theorem State.noFrameWaits_congr (s t : State) (h1 : t.port.sending = s.port.sending) (h2 : t.handler = s.handler)
    (h3 : t.transmitter = s.transmitter) (h : s.NoFrameWaits) : t.NoFrameWaits := by
  unfold State.NoFrameWaits State.boundaryDue State.noticeOffered at *
  rw [h1, h2, h3]
  exact h

/-- A busy line makes no frame wait on an idle one. -/
theorem State.noFrameWaits_of_busy (s : State) (h : s.port.sending.isSome) : s.NoFrameWaits := by
  unfold State.NoFrameWaits State.boundaryDue
  rw [Option.isNone_iff_eq_none.not.mpr (Option.isSome_iff_ne_none.mp h) |> Bool.eq_false_of_not_eq_true]
  rfl

/-- After a boundary no frame waits on an idle line (R164, R170). -/
theorem State.boundary_noFrameWaits (s : State) : s.boundary.NoFrameWaits := by
  unfold State.boundary
  split
  · exact State.noFrameWaits_of_busy _ rfl
  · next hr =>
    split
    · unfold State.offerNotice
      split
      · exact State.noFrameWaits_of_busy _ rfl
      · next hd =>
        have due : s.transmitter.anyDue = false := by
          rw [List.find?_eq_none] at hd
          simpa [Transmitter.anyDue] using hd
        split
        · split
          · exact State.noFrameWaits_of_busy _ rfl
          · next hp => simp [State.NoFrameWaits, State.boundaryDue, State.noticeOffered, hr, due, hp]
        · next hl => simp [State.NoFrameWaits, State.boundaryDue, State.noticeOffered, hr, due, hl]
    · next hl => simp [State.NoFrameWaits, State.boundaryDue, State.noticeOffered, hr, hl]

/-- After an idle line has taken its frame none waits on an idle line (R157, R164). -/
theorem State.fillLine_noFrameWaits (s : State) : s.fillLine.NoFrameWaits := by
  by_cases h : s.port.sending = none
  · rw [s.fillLine_idle h]
    exact s.boundary_noFrameWaits
  · have hs := Option.isSome_iff_ne_none.mpr h
    rw [s.fillLine_busy hs]
    exact s.noFrameWaits_of_busy hs

/-- The reply queue is full only while LINK_TX is busy (R157). -/
theorem State.NoFrameWaits.busy_of_replies (s : State) (h : s.NoFrameWaits) (hr : s.handler.replies ≠ []) :
    s.port.sending.isSome := by
  cases e : s.port.sending with
  | some f => rfl
  | none => simp [State.NoFrameWaits, State.boundaryDue, e, hr] at h

end Sys2Proof.Machine
end

