-- ==== Sys2Proof/Laws/Memory.lean ====
section
/-! SUPPORT. The buffer pool's memory: every operation keeps the canonical form and the pool's bounds, a write reads back, and
so do the bytes of a job in its blocks. -/

namespace Sys2Proof.Machine

/-- The canonical form of a list from an address onward: what follows lies above it. -/
def Memory.above (m : List Host.Cell) (a : Nat) : Prop := ∀ p ∈ m, a < p.1

theorem Memory.wf_cons (a : Nat) (v : Byte) (m : List Host.Cell) :
    Memory.wf ((a, v) :: m) = true ↔ v ≠ 0 ∧ Memory.above m a ∧ Memory.wf m = true := by
  induction m generalizing a v with
  | nil => simp [Memory.wf, Memory.above]
  | cons p t ih =>
    obtain ⟨b, w⟩ := p
    have hb := ih b w
    simp only [Memory.wf, Bool.and_eq_true, decide_eq_true_eq, bne_iff_ne, hb]
    constructor
    · rintro ⟨⟨hab, hv⟩, hw, habove, ht⟩
      refine ⟨hv, ?_, hw, habove, ht⟩
      intro p hp
      rcases List.mem_cons.mp hp with rfl | hp
      · exact hab
      · exact lt_trans hab (habove p hp)
    · rintro ⟨hv, habove, hw, hbove, ht⟩
      exact ⟨⟨habove (b, w) (by simp), hv⟩, hw, hbove, ht⟩

theorem Memory.write_above (m : List Host.Cell) (a c : Nat) (v : Byte) (h : Memory.above m c) (hc : c < a) :
    Memory.above (Memory.write m a v) c := by
  induction m with
  | nil => unfold Memory.write; split <;> simp [Memory.above, hc]
  | cons p t ih =>
    obtain ⟨b, w⟩ := p
    have hb : c < b := h (b, w) (by simp)
    have ht : Memory.above t c := fun q hq => h q (by simp [hq])
    unfold Memory.write
    split_ifs
    · exact h
    · intro q hq
      rcases List.mem_cons.mp hq with rfl | hq
      · exact hc
      · exact h q hq
    · exact ht
    · intro q hq
      rcases List.mem_cons.mp hq with rfl | hq
      · exact hc
      · exact ht q hq
    · intro q hq
      rcases List.mem_cons.mp hq with rfl | hq
      · exact hb
      · exact ih ht q hq

/-- A write keeps the canonical form. -/
theorem Memory.write_wf (m : List Host.Cell) (a : Nat) (v : Byte) (h : Memory.wf m = true) :
    Memory.wf (Memory.write m a v) = true := by
  induction m with
  | nil =>
    unfold Memory.write
    split_ifs with hv
    · rfl
    · exact (Memory.wf_cons a v []).mpr ⟨hv, by simp [Memory.above], rfl⟩
  | cons p t ih =>
    obtain ⟨b, w⟩ := p
    obtain ⟨hw, hb, ht⟩ := (Memory.wf_cons b w t).mp h
    unfold Memory.write
    split_ifs with h1 h2 h3 h4
    · exact h
    · refine (Memory.wf_cons a v _).mpr ⟨h2, ?_, h⟩
      intro q hq
      rcases List.mem_cons.mp hq with rfl | hq
      · exact h1
      · exact lt_trans h1 (hb q hq)
    · exact ht
    · exact (Memory.wf_cons a v t).mpr ⟨h4, h3 ▸ hb, ht⟩
    · exact (Memory.wf_cons b w _).mpr ⟨hw, Memory.write_above t a b v hb (by omega), ih ht⟩

/-- An address below every listed one reads as nothing written. -/
theorem Memory.read_above (m : List Host.Cell) (a : Nat) (h : Memory.above m a) : Memory.read m a = 0 := by
  induction m with
  | nil => rfl
  | cons p t ih =>
    obtain ⟨b, w⟩ := p
    have hb : a < b := h (b, w) (by simp)
    have ht : Memory.above t a := fun q hq => h q (by simp [hq])
    simp [Memory.read, Nat.ne_of_lt hb, ih ht]

/-- Reading after a write. -/
theorem Memory.read_write (m : List Host.Cell) (a c : Nat) (v : Byte) (h : Memory.wf m = true) :
    Memory.read (Memory.write m a v) c = if c = a then v else Memory.read m c := by
  induction m with
  | nil =>
    unfold Memory.write
    split_ifs with hv hc hc <;> simp_all [Memory.read]
  | cons p t ih =>
    obtain ⟨b, w⟩ := p
    obtain ⟨hw, hb, ht⟩ := (Memory.wf_cons b w t).mp h
    unfold Memory.write
    by_cases h1 : a < b
    · by_cases hv : v = 0
      · by_cases hc : c = a
        · subst hc
          have : Memory.above t c := fun q hq => lt_trans h1 (hb q hq)
          simp [h1, hv, Memory.read, Nat.ne_of_lt h1, Memory.read_above t c this]
        · simp [h1, hv, hc]
      · have hv' : ¬v = 0#8 := hv
        by_cases hc : c = a <;> simp [h1, hv', Memory.read, hc]
    · by_cases h2 : a = b
      · subst h2
        by_cases hv : v = 0
        · by_cases hc : c = a
          · subst hc; simp [hv, Memory.read_above t c hb]
          · simp [hv, hc, Memory.read]
        · have hv' : ¬v = 0#8 := hv
          by_cases hc : c = a <;> simp [hv', hc, Memory.read]
      · by_cases hc : c = b
        · subst hc; simp [h1, h2, Memory.read, Ne.symm h2]
        · simp [h1, h2, Memory.read, hc, ih ht]

/-- Storing data bytes in a job's blocks keeps the canonical form. -/
theorem poolStore_wf (m : List Host.Cell) (blocks : List BlockNo) (i : Nat) (l : List Byte)
    (h : Memory.wf m = true) : Memory.wf (poolStore m blocks i l) = true := by
  induction l generalizing m i with
  | nil => exact h
  | cons v t ih =>
    unfold poolStore
    split
    · exact ih _ _ (Memory.write_wf m _ v h)
    · exact h

/-! ## The bytes of a job in its blocks -/

/-- A write lists nothing beyond what stood there but its own address. -/
theorem Memory.write_mem (m : List Host.Cell) (a : Nat) (v : Byte) :
    ∀ p ∈ Memory.write m a v, p ∈ m ∨ p.1 = a := by
  induction m with
  | nil => unfold Memory.write; split <;> simp
  | cons q t ih =>
    obtain ⟨b, w⟩ := q
    intro p hp
    unfold Memory.write at hp
    split_ifs at hp
    · exact Or.inl hp
    · rcases List.mem_cons.mp hp with rfl | hp
      · exact Or.inr rfl
      · exact Or.inl hp
    · exact Or.inl (List.mem_cons_of_mem _ hp)
    · rcases List.mem_cons.mp hp with rfl | hp
      · exact Or.inr rfl
      · exact Or.inl (List.mem_cons_of_mem _ hp)
    · rcases List.mem_cons.mp hp with rfl | hp
      · exact Or.inl (List.mem_cons_self ..)
      · exact (ih p hp).imp (List.mem_cons_of_mem _) id

/-- A data byte within the blocks has the address that its block gives (R93). -/
theorem blockAddress?_eq (blocks : List BlockNo) (i : Nat) (b : BlockNo) (h : blocks[i / 32]? = some b) :
    blockAddress? blocks i = some (32 * b.val + i % 32) := by
  simp [blockAddress?, h]

/-- Storing data bytes lists nothing outside the pool's 48 blocks (R93). -/
theorem poolStore_bounded (m : List Host.Cell) (blocks : List BlockNo) (i : Nat) (l : List Byte)
    (h : ∀ p ∈ m, p.1 < 1536) : ∀ p ∈ poolStore m blocks i l, p.1 < 1536 := by
  induction l generalizing m i with
  | nil => exact h
  | cons v t ih =>
    unfold poolStore
    split
    · next a ha =>
      refine ih _ _ fun p hp => ?_
      rcases Memory.write_mem m a v p hp with hp | hp
      · exact h p hp
      · obtain ⟨b, _, e⟩ := Option.map_eq_some_iff.mp ha
        have := b.isLt
        have := Nat.mod_lt i (by decide : 0 < 32)
        omega
    · exact h

/-- Different data bytes of a job have different addresses (R93). -/
theorem block_addresses_differ (blocks : List BlockNo) (hn : blocks.Nodup) (x y : Nat) (b c : BlockNo)
    (hb : blocks[x / 32]? = some b) (hc : blocks[y / 32]? = some c)
    (h : 32 * b.val + x % 32 = 32 * c.val + y % 32) : x = y := by
  have hx := Nat.mod_lt x (by decide : 0 < 32)
  have hy := Nat.mod_lt y (by decide : 0 < 32)
  have hbc : b = c := by ext; omega
  subst hbc
  obtain ⟨h1, e1⟩ := List.getElem?_eq_some_iff.mp hb
  obtain ⟨h2, e2⟩ := List.getElem?_eq_some_iff.mp hc
  have := (List.Nodup.getElem_inj_iff hn (hi := h1) (hj := h2)).mp (e1.trans e2.symm)
  omega

/-- Stored data bytes stand at the addresses that their blocks give, and no other byte changes (R93). -/
theorem poolStore_read (m : List Host.Cell) (blocks : List BlockNo) (i : Nat) (l : List Byte)
    (hm : Memory.wf m = true) (hn : blocks.Nodup) (hl : i + l.length ≤ 32 * blocks.length) :
    (∀ k b, k < l.length → blocks[(i + k) / 32]? = some b →
        Memory.read (poolStore m blocks i l) (32 * b.val + (i + k) % 32) = l.getD k 0) ∧
      ∀ a, (∀ k b, k < l.length → blocks[(i + k) / 32]? = some b → a ≠ 32 * b.val + (i + k) % 32) →
        Memory.read (poolStore m blocks i l) a = Memory.read m a := by
  induction l generalizing m i with
  | nil => exact ⟨fun k b h => absurd h (Nat.not_lt_zero k), fun a _ => rfl⟩
  | cons v t ih =>
    have hi : i / 32 < blocks.length := by simp only [List.length_cons] at hl; omega
    have h0 : blocks[i / 32]? = some blocks[i / 32] := List.getElem?_eq_getElem hi
    obtain ⟨b0, hb0⟩ : ∃ b0, b0 = blocks[i / 32] := ⟨_, rfl⟩
    rw [← hb0] at h0
    have hs : poolStore m blocks i (v :: t) =
        poolStore (Memory.write m (32 * b0.val + i % 32) v) blocks (i + 1) t := by
      rw [poolStore, blockAddress?_eq blocks i b0 h0]
    have rest := ih (Memory.write m (32 * b0.val + i % 32) v) (i + 1) (Memory.write_wf m _ v hm)
      (by simp only [List.length_cons] at hl; omega)
    rw [hs]
    constructor
    · intro k b hk hb
      cases k with
      | zero =>
        simp only [Nat.add_zero] at hb ⊢
        cases h0.symm.trans hb
        rw [rest.2 _ fun k c _ hc e => ?_, Memory.read_write _ _ _ _ hm, if_pos rfl]
        · rfl
        · have := block_addresses_differ blocks hn _ _ _ _ h0 hc e
          omega
      | succ k =>
        have e : i + (k + 1) = i + 1 + k := by omega
        rw [e] at hb ⊢
        exact rest.1 k b (by simpa using hk) hb
    · intro a ha
      rw [rest.2 a fun k c hk hc => ?_, Memory.read_write _ _ _ _ hm]
      · exact if_neg (ha 0 b0 (by simp) h0)
      · have e : i + (k + 1) = i + 1 + k := by omega
        exact e ▸ ha (k + 1) c (by simpa using hk) (by rw [e]; exact hc)

/-- Loaded data bytes are those at the addresses that their blocks give (R93). -/
theorem poolLoad_get (m : List Host.Cell) (blocks : List BlockNo) (i n : Nat) :
    (poolLoad m blocks i n).length = n ∧
      ∀ k b, k < n → blocks[(i + k) / 32]? = some b →
        (poolLoad m blocks i n)[k]? = some (Memory.read m (32 * b.val + (i + k) % 32)) := by
  induction n generalizing i with
  | zero => exact ⟨rfl, fun k b h => absurd h (Nat.not_lt_zero k)⟩
  | succ n ih =>
    refine ⟨by simp [poolLoad, (ih (i + 1)).1], fun k b hk hb => ?_⟩
    cases k with
    | zero =>
      rw [Nat.add_zero] at hb ⊢
      simp [poolLoad, blockAddress?_eq blocks i b hb]
    | succ k =>
      have e : i + (k + 1) = i + 1 + k := by omega
      rw [e] at hb ⊢
      simpa [poolLoad] using (ih (i + 1)).2 k b (by omega) hb

/-- Stored data bytes are read back (R93). -/
theorem poolLoad_poolStore (m : List Host.Cell) (blocks : List BlockNo) (i : Nat) (l : List Byte)
    (hm : Memory.wf m = true) (hn : blocks.Nodup) (hl : i + l.length ≤ 32 * blocks.length) :
    poolLoad (poolStore m blocks i l) blocks i l.length = l := by
  have load := poolLoad_get (poolStore m blocks i l) blocks i l.length
  refine List.ext_getElem? fun k => ?_
  by_cases hk : k < l.length
  · have hi : (i + k) / 32 < blocks.length := by omega
    have hb : blocks[(i + k) / 32]? = some blocks[(i + k) / 32] := List.getElem?_eq_getElem hi
    rw [load.2 k _ hk hb, (poolStore_read m blocks i l hm hn hl).1 k _ hk hb]
    simp [hk]
  · rw [List.getElem?_eq_none (by rw [load.1]; omega), List.getElem?_eq_none (by omega)]

/-- Reset lists nothing. -/
theorem State.reset_pool_wf : Memory.wf State.reset.jobs.pool = true := rfl

end Sys2Proof.Machine
end

