-- ==== Sys2Proof/Laws/Replies.lean ====
section
/-! SUPPORT. Laws of requests that execute, and their replies, in the words of the statements. -/

namespace Sys2Proof.Machine

open Sys2Proof.Claims

/-- Every request command is one of three forms: a request with a length test and a service, a session end,
  or an unknown request. -/
theorem exec_of_requestFrame (c : Instr) (f : Frame) (h : requestFrame? c = some f) :
    (∃ good serve, ∀ s, exec c s = .next (s.request f good serve).fillLine ∧ (lengthAllowed f.kind f.payload.length = false
      → good = false)) ∨
    (∃ r, ∀ s, exec c s = .next (s.requestEnd f r).fillLine ∧ (lengthAllowed f.kind f.payload.length = false →
      f.payload.isEmpty = false)) ∨ (c = .unknownRequest f.kind f.seq f.payload ∧ ∀ s,
      exec c s = .next (s.requestUnknown f).fillLine) := by
  cases c <;> simp only [requestFrame?, Option.some.injEq, reduceCtorEq] at h <;> subst h
  case closeSession q p => right; left; exact ⟨false, fun s => ⟨rfl, by cases p <;> simp [lengthAllowed]⟩⟩
  case restart q p => right; left; exact ⟨true, fun s => ⟨rfl, by cases p <;> simp [lengthAllowed]⟩⟩
  case unknownRequest k q p => right; right; exact ⟨rfl, fun s => rfl⟩
  all_goals
    left; refine ⟨_, _, fun s => ⟨rfl, ?_⟩⟩
    simp [lengthAllowed, lengthIs, submitLength, pingLength]

/-- An answer, whole (R154 step 7). -/
theorem State.answer_spec (s : State) (f : Frame) (st : Status) (l : List Byte) (h : st.granted = true ∨ l = []) :
    AnsweredFrom s (s.answer f (f.reply st l)) f st.code l := by
  rw [AnsweredFrom, State.answer_eq]
  have : f.reply st l = replyTo f st.code l := by
    rcases h with h | h <;> simp [Frame.reply, replyTo, replyKind, h]
  rw [this]; rfl

/-- A request that executes is not settled before. -/
theorem executes_unsettled (s : State) (f : Frame) (h : Executes s f) : (s.popArrival f).settled? f = none := by
  obtain ⟨hl, hr, hc⟩ := h
  have hf : (s.popArrival f).repliesFull = false := by simp [State.repliesFull, hr]
  have hn : (s.popArrival f).cached? f.seq = none := State.cached?_none _ _ (by simpa using hc)
  simp [State.settled?, hf, hl, hn]

theorem executes_takeFrame (s : State) (f : Frame) (h : Executes s f) : s.takeFrame f = s.popArrival f :=
  s.takeFrame_eq f (by simp [h.1])

/-- A request that executes is answered with what its service gives. -/
theorem executes_request (s : State) (f : Frame) (good serve) (hx : Executes s f) (a : Served) (ha : serve
  (s.popArrival f) = a) (hg : good = true) :
    s.request f good serve = a.1.answer f (f.reply a.2.1 a.2.2) := by
  rw [State.request_executed s f good serve hx.1 hx.2.1 hx.2.2, hg, ← ha]; rfl

theorem bayOf?_none (byte : Byte) (h : 8 ≤ byte.toNat) : bayOf? byte = none := by simp [bayOf?]; omega

theorem bayOf?_some (byte : Byte) (b : BayNo) (h : byte.toNat = b.val) : bayOf? byte = some b := by
  have := b.isLt
  unfold bayOf?; rw [dif_pos (by omega)]; congr;

/-- A request that executes, with what its service answers. -/
theorem executes_answered (s u : State) (f : Frame) (good serve) (hx : Executes s f) (x : Status) (l : List Byte)
  (ha : serve (s.popArrival f) = (u, x, l)) (hg : good = true)
   (h : x.granted = true ∨ l = []) :
    ∃ t, (Host.Outcome.next (s.request f good serve).fillLine : Host.Outcome State Fault Refusal) = .next t.fillLine ∧
      AnsweredFrom u t f x.code l :=
  ⟨_, rfl, by rw [executes_request s f good serve hx _ ha hg]; exact State.answer_spec _ _ x _ h⟩

end Sys2Proof.Machine
end

