-- ==== Sys2Proof/Laws/Sessions.lean ====
section
/-! SUPPORT. Laws of session start and end, removals by ACK and frame boundaries, in the words of the statements. -/

namespace Sys2Proof.Machine

open Sys2Proof.Claims

/-- A session start, whole (R146, R158). -/
theorem State.startSession_spec (nonce) (s : State) : SessionStarted nonce s (s.startSession nonce) := by
  have key : ∀ (l : List SourceNo) (u : State), l.Nodup → u.handler.link = .up →
      let t := l.foldl State.noticeTest u
      t = { u with reporter := t.reporter, transmitter := { u.transmitter with pending := u.transmitter.pending ++
        (l.filter fun n => decide ((u.source n).set &&& u.mask n ≠ 0 ∧ (u.source n).stage = .noNotice)).map .event
        } } ∧
      t.reporter.resetCause = u.reporter.resetCause ∧
      ∀ n, t.source n = if n ∈ l ∧ ((u.source n).set &&& u.mask n ≠ 0 ∧ (u.source n).stage = .noNotice) then {
        u.source n with stage := .pending } else u.source n := by
    intro l
    induction l with
    | nil => intro u _ _ t; refine ⟨?_, rfl, fun n => by simp [t]⟩; ext1 <;> simp [t]
    | cons a l ih =>
      intro u hn hu t
      obtain ⟨hna, hnl⟩ := List.nodup_cons.1 hn
      have hl1 : (u.noticeTest a).handler.link = .up := by simp [hu]
      obtain ⟨i1, i2, i3⟩ := ih (u.noticeTest a) hnl hl1
      have ht : t = l.foldl State.noticeTest (u.noticeTest a) := rfl
      rw [← ht] at i1 i2 i3
      have hsrc : ∀ n, n ≠ a → (u.noticeTest a).source n = u.source n := fun n h => by simp [h]
      have hmask : ∀ n, (u.noticeTest a).mask n = u.mask n := fun n => by simp
      have htr := State.noticeTest_transmitter u a
      have hfil : (l.filter fun n => decide (((u.noticeTest a).source n).set &&& (u.noticeTest a).mask n ≠ 0 ∧
        ((u.noticeTest a).source n).stage = .noNotice)) = l.filter fun n => decide ((u.source n).set &&& u.mask n ≠
        0 ∧ (u.source n).stage = .noNotice) := by
        apply List.filter_congr; intro n hnm; rw [hsrc n (fun e => hna (e ▸ hnm)), hmask]
      refine ⟨?_, i2.trans (by simp), ?_⟩
      · rw [hfil] at i1
        refine i1.trans ?_
        ext1 <;> try (first | rfl | simp; done)
        rw [htr]
        by_cases hd : (u.source a).set &&& u.mask a ≠ 0 ∧ (u.source a).stage = .noNotice
        · have hd' : (u.source a).set &&& u.mask a ≠ 0 ∧ (u.source a).stage = .noNotice ∧ u.handler.link ≠ .down :=
            ⟨hd.1, hd.2, by simp [hu]⟩
          rw [if_pos hd', List.filter_cons_of_pos (by simpa using hd)]; simp
        · have hd' : ¬((u.source a).set &&& u.mask a ≠ 0 ∧ (u.source a).stage = .noNotice ∧ u.handler.link ≠ .down)
            := fun h => hd ⟨h.1, h.2.1⟩
          rw [if_neg hd', List.filter_cons_of_neg (by simpa using hd)]
      · intro n
        rw [i3 n]
        by_cases hna' : n = a
        · subst hna'
          rw [if_neg (fun h => hna h.1), State.noticeTest_source]
          by_cases hd : (u.source n).set &&& u.mask n ≠ 0 ∧ (u.source n).stage = .noNotice
          · rw [if_pos ⟨hd.1, hd.2, by simp [hu]⟩, if_pos ⟨by simp, hd⟩]
          · rw [if_neg (fun h => hd ⟨h.1, h.2.1⟩), if_neg (fun h => hd h.2)]
        · rw [hsrc n hna', hmask]
          by_cases hl : n ∈ l <;> simp [hl, hna']
  show _ ∧ _ ∧ _
  let u := (s.setHandler { s.handler with link := .up, session := nextSession s.handler.session, nonce := some nonce, cache := [] }).setTransmitter { s.transmitter with next := 0 }
  obtain ⟨k1, k2, k3⟩ := key [8, 0, 1, 2, 3, 4, 5, 6, 7] u (by decide) rfl
  have ht : s.startSession nonce = [8, 0, 1, 2, 3, 4, 5, 6, 7].foldl State.noticeTest u := rfl
  rw [← ht] at k1 k2 k3
  refine ⟨k1, k2, fun n => ?_⟩
  rw [k3 n]
  have hn : n ∈ ([8, 0, 1, 2, 3, 4, 5, 6, 7] : List SourceNo) := by revert n; decide
  have : u.source n = s.source n := rfl
  have hm : u.mask n = s.mask n := rfl
  rw [this, hm]
  simp only [hn, true_and, decide_eq_true_eq]

theorem Slot.sessionEnd_eq (k : Slot) :
    k.sessionEnd = if k.state = .active then (if k.orphan then k else { k with orphan := true, mark := some (k.mark.getD .cancel) }) else if k.state = .free then k else Slot.free := by
  unfold Slot.sessionEnd; cases hk : k.state <;> simp
  split
  · rfl
  · unfold Slot.marked; cases h : k.mark <;> simp [hk]

theorem State.reportFalls_eq (before : State) : ∀ (l : List BayNo) (u : State),
    let t := l.foldl (State.reportFall before) u
    t = { u with handed := u.handed ++ (l.filter fun b => decide (u.liveCount b < before.liveCount b)).map fun b => .liveCount b (u.liveCount b) true } := by
  intro l
  induction l with
  | nil => intro u t; simp [t]
  | cons b l ih =>
    intro u t
    have ht : t = l.foldl (State.reportFall before) (before.reportFall u b) := rfl
    have h0 : ∀ c, (before.reportFall u b).liveCount c = u.liveCount c := by
      intro c; unfold State.reportFall; split <;> rfl
    rw [ht, ih]
    simp only [h0]
    by_cases h : u.liveCount b < before.liveCount b
    · have : before.reportFall u b = u.reportLive b true := if_pos h
      rw [this, List.filter_cons_of_pos (by simpa using h)]
      simp [State.reportLive, State.hand]
    · have : before.reportFall u b = u := if_neg h
      rw [this, List.filter_cons_of_neg (by simpa using h)]

theorem State.liveCount_congr (s t : State) (h : s.jobs = t.jobs) (b) : s.liveCount b = t.liveCount b := by
  have : ∀ j, s.slot j = t.slot j := fun j => by simp only [State.slot, h]
  simp only [State.liveCount, this]

theorem State.endSession_eq (s : State) (kept) (u : State) (hu : s.endSessionJobs = u) :
    s.endSession kept = { u with reporter := { u.reporter with sources := Vector.ofFn fun n => (u.source n).sessionEnd }, transmitter := u.transmitter.sessionEnd, handler := { u.handler with link := .down, nonce := none, cache := [], replies := kept } } := by
  unfold State.endSession; rw [hu]; rfl

theorem sessionAborts_eq (s : State) (l : List SlotNo) :
    (l.flatMap fun j => (s.slot j).sessionAbort j) = (l.filter fun j => decide ((s.slot j).state = .active ∧
    (s.slot j).orphan = false ∧ (s.slot j).mark = none)).map (fun j => .abortRequest (.job j)) := by
  induction l with
  | nil => rfl
  | cons a l ih =>
    rw [List.flatMap_cons, ih]
    by_cases h : (s.slot a).state = .active ∧ (s.slot a).orphan = false ∧ (s.slot a).mark = none
    · rw [List.filter_cons_of_pos (by simpa using h)]; unfold Slot.sessionAbort; rw [if_pos h]; rfl
    · rw [List.filter_cons_of_neg (by simpa using h)]; unfold Slot.sessionAbort; rw [if_neg h]; rfl

/-- The Job Table's part of a session end (R112). -/
theorem State.endSessionJobs_spec (s : State) : ∃ (J : JobTable) (H : List Report), s.endSessionJobs = { s with jobs := J, handed := H } ∧ J.pool = s.jobs.pool ∧ J.queues = Vector.replicate 8 [] ∧ J.slots = Vector.ofFn (fun j => (s.slot j).sessionEnd) ∧
    H = s.handed ++ ((List.finRange 32).filter fun j => decide ((s.slot j).state = .active ∧ (s.slot j).orphan = false ∧ (s.slot j).mark = none)).map (fun j => .abortRequest (.job j)) ++ ((List.finRange 8).filter fun b => decide (({ s with jobs := J } : State).liveCount b < s.liveCount b)).map fun b => .liveCount b (({ s with jobs := J } : State).liveCount b) true := by
  obtain ⟨J, hJ⟩ : ∃ J : JobTable, J = { s.jobs with slots := Vector.ofFn fun j => (s.slot j).sessionEnd, queues := Vector.replicate 8 [] } := ⟨_, rfl⟩
  obtain ⟨A, hA⟩ : ∃ A, A = (List.finRange 32).flatMap fun j => (s.slot j).sessionAbort j := ⟨_, rfl⟩
  have h := State.reportFalls_eq s (List.finRange 8) ({ s with jobs := J, handed := s.handed ++ A } : State)
  have e : s.endSessionJobs = (List.finRange 8).foldl (State.reportFall s) ({ s with jobs := J, handed := s.handed ++ A } : State) := by
    unfold State.endSessionJobs; rw [← hA]; simp only [State.setJobs, State.handAll]; rw [← hJ]
  refine ⟨J, _, ?_, by rw [hJ], by rw [hJ], by rw [hJ], rfl⟩
  rw [e, ← sessionAborts_eq, ← hA]
  refine h.trans ?_
  have hl : ∀ b, ({ s with jobs := J, handed := s.handed ++ A } : State).liveCount b = ({ s with jobs := J } :
    State).liveCount b := fun b => rfl
  simp only [hl]

/-- A session end, whole (R163). -/
theorem State.endSession_spec (kept) (s : State) : SessionEnded kept s (s.endSession kept) := by
  obtain ⟨J, H, hu, hJ1, hJ2, hJ3, hH⟩ := State.endSessionJobs_spec s
  have es := State.endSession_eq s kept _ hu
  have hjobs : (s.endSession kept).jobs = J := by rw [es]
  have hlc : ∀ b, (s.endSession kept).liveCount b = ({ s with jobs := J } : State).liveCount b := fun b => State.liveCount_congr _ _ hjobs b
  refine ⟨?_, ?_, ?_, ?_, ?_, ?_⟩
  · simp only [hlc]
    rw [← hH, es]
    ext1 <;> rfl
  · rw [hjobs, hJ1]
  · intro b; simp [State.queue, hjobs, hJ2]
  · intro j
    have : (s.endSession kept).slot j = (s.slot j).sessionEnd := by simp [State.slot, hjobs, hJ3]
    rw [this, Slot.sessionEnd_eq]
    refine ⟨fun h => by rw [if_neg h], fun h h2 => by rw [if_pos h, if_pos h2], fun h h2 => by rw [if_pos h, if_neg (by simp [h2])]⟩
  · rw [es]
  · intro n
    rw [es]; simp [State.source, SourceRecord.sessionEnd]

/-- The removal of a notice at its owner (R97, R142). -/
theorem State.noticeRemoved_spec (s : State) (x) : Removed x s (s.noticeRemoved x) := by
  cases x with
  | jobDone j => rfl
  | event n =>
    by_cases h : (s.source n).renotify = true
    · unfold Removed State.noticeRemoved State.eventRemoved
      simp only [h, if_true]; exact State.noticeTest_spec _ _
    · unfold Removed State.noticeRemoved State.eventRemoved
      simp only [h, Bool.false_eq_true, if_false]

/-- The removals of one ACK, in order (R171). -/
theorem noticesRemoved_spec : ∀ (l : List Unacked) (s :
    State), RemovedAll (l.map Unacked.notice) s (l.foldl (fun t u => t.noticeRemoved u.notice) s) := by
  intro l
  induction l with
  | nil => intro s; rfl
  | cons a l ih => intro s; exact ⟨_, State.noticeRemoved_spec _ _, ih _⟩

theorem State.noticeRemoved_frame (s : State) (x) : (s.noticeRemoved x).port = s.port ∧
    (s.noticeRemoved x).config = s.config ∧ (s.noticeRemoved x).transmitter.unacked = s.transmitter.unacked ∧
    (s.noticeRemoved x).transmitter.ackTimer = s.transmitter.ackTimer := by
  cases x with
  | jobDone j => exact ⟨rfl, rfl, rfl, rfl⟩
  | event n =>
    simp only [State.noticeRemoved, State.eventRemoved]
    split
    · refine ⟨by simp, by simp, ?_, ?_⟩ <;> rw [State.noticeTest_transmitter] <;> split <;> rfl
    · exact ⟨rfl, rfl, rfl, rfl⟩

theorem noticesRemoved_frame : ∀ (l : List Unacked) (s : State), let t := l.foldl (fun t u => t.noticeRemoved u.notice) s
    t.port = s.port ∧ t.config = s.config ∧ t.transmitter.unacked = s.transmitter.unacked ∧ t.transmitter.ackTimer = s.transmitter.ackTimer := by
  intro l
  induction l with
  | nil => intro s; exact ⟨rfl, rfl, rfl, rfl⟩
  | cons a l ih =>
    intro s t
    obtain ⟨a1, a2, a3, a4⟩ := State.noticeRemoved_frame s a.notice
    obtain ⟨b1, b2, b3, b4⟩ := ih (s.noticeRemoved a.notice)
    exact ⟨b1.trans a1, b2.trans a2, b3.trans a3, b4.trans a4⟩

theorem State.startFrame_eq (s : State) (f n r) : s.startFrame f n r = sendingFrame s f n r := rfl

/-- The frame of a notice (R193). -/
theorem State.noticeFrame_eq (s : State) (x : Notice) (num) (h : ∀ n, x = .event n →
    (s.source n).capture.isSome) : s.noticeFrame x num = noticeAsSent s x num := by
  cases x with
  | jobDone j =>
    have : s.inData j = if (s.slot j).kind = .write then [] else poolLoad s.jobs.pool (s.slot j).blocks 0 (s.slot j).bytesIn := by
      unfold State.inData; cases (s.slot j).kind <;> rfl
    show s.jobDoneFrame j num = _
    unfold State.jobDoneFrame; rw [this]; rfl
  | event n =>
    have := h n rfl
    unfold State.noticeFrame noticeAsSent
    cases e : (s.source n).capture with
    | none => rw [e] at this; cases this
    | some c => simp only [e]; cases c with
      | bay b st x l ca => cases ca <;> rfl
      | device st ca => rfl

/-- The first due mark is cleared (R170). -/
theorem clearFirstDue_eq (before after : List Unacked) (x : Unacked) (hx : x.due = true) (hb :
    ∀ u ∈ before, u.due = false) : clearFirstDue (before ++ x :: after) = before ++ { x with due := false }
    :: after := by
  induction before with
  | nil => show (if x.due then _ else _) = _; rw [if_pos hx]; rfl
  | cons a l ih =>
    have := hb a (by simp)
    show (if a.due then _ else a :: clearFirstDue (l ++ x :: after)) = _
    rw [this, if_neg (by simp), ih (fun u hu => hb u (by simp [hu]))]; rfl

/-- A frame boundary, whole (R164, R170). -/
theorem State.boundary_spec (s : State) : BoundaryTaken s s.boundary := by
  refine ⟨fun q rest h => ?_, fun h hu => ⟨fun before x after hl hx hb hc => ?_, fun x rest hc h4 hp => ?_, fun hc hh => ?_⟩, fun h hu => ?_⟩
  · unfold State.boundary; rw [h]; rfl
  all_goals unfold State.boundary; simp only [h]
  all_goals first | rw [if_pos hu] | rw [if_neg hu]
  · have hf : s.transmitter.unacked.find? (fun u => u.due) = some x := by
      rw [hl, List.find?_append]
      have : before.find? (fun u => u.due) = none := by
        rw [List.find?_eq_none]; intro u hm; simp [hb u hm]
      rw [this]; simp [hx]
    unfold State.offerNotice; rw [hf]
    show s.resendNotice x = _
    unfold State.resendNotice
    rw [hl, clearFirstDue_eq before after x hx hb]
    simp only [State.startFrame_eq]
    rw [State.noticeFrame_eq _ _ _ (by intro n hn; exact hc n hn)]; rfl
  · have hf : s.transmitter.unacked.find? (fun u => u.due) = none := by
      rw [List.find?_eq_none]; intro u hm; simp [hc u hm]
    have : s.offerNotice = s.sendNotice x rest := by unfold State.offerNotice; rw [hf]; simp only; rw [if_pos h4, hp]
    rw [this]
    refine ⟨fun j hj => ?_, fun b hb => ?_, fun hd => ?_⟩
    · subst hj
      unfold State.sendNotice
      simp only [State.startFrame_eq]
      rw [State.noticeFrame_eq _ _ _ (by intro n hn; cases hn)]; rfl
    · subst hb
      unfold State.sendNotice
      simp only [State.startFrame_eq, State.ownerSent]
      have hbs : bayOfSource? (baySource b) = some b := by unfold bayOfSource? baySource; rw [dif_pos (by show b.val < 8; exact b.isLt)]; rfl
      have hcap : ∀ u : State, u.captureOf (baySource b) = .bay b (u.source (baySource b)).set (u.bay b).state
        (u.bay b).lastResult (u.bay b).cause := by
        intro u; unfold State.captureOf; rw [hbs]
      rw [State.noticeFrame_eq _ _ _ (by intro n hn; cases hn; simp [State.markSent])]
      simp only [State.markSent, hcap]; rfl
    · subst hd
      unfold State.sendNotice
      simp only [State.startFrame_eq, State.ownerSent]
      rw [State.noticeFrame_eq _ _ _ (by intro n hn; cases hn; simp [State.markSent])]; rfl
  · have hf : s.transmitter.unacked.find? (fun u => u.due) = none := by
      rw [List.find?_eq_none]; intro u hm; simp [hc u hm]
    unfold State.offerNotice; rw [hf]; simp only
    rcases hh with hh | hh
    · rw [if_neg (by omega)]
    · rw [hh]; split <;> rfl

end Sys2Proof.Machine
end

