-- ==== Sys2Proof/Tests/Slice0.lean ====
section
/-! SUPPORT. Tests: terms that are not well formed; worked examples of the spec; and, for each statement with hypotheses, a
concrete state and operands that meet them all, with one for each clause where a statement has several. -/

namespace Sys2Proof.Tests

open Sys2Proof.Machine Sys2Proof.Claims

/-! ## Terms that are not well formed -/

theorem test_long_payload_is_ill_formed : Instr.wellFormed (.ping 0 (List.replicate 251 0)) = false := by decide +kernel

theorem test_longest_payload_is_well_formed : Instr.wellFormed (.ping 0 (List.replicate 250 0)) = true := by decide +kernel

theorem test_every_payload_is_checked :
    ∀ c ∈ ([.indicate 0 (List.replicate 251 0), .bayStatus 0 (List.replicate 251 0), .bayIdentity 0 (List.replicate 251 0),
      .submit 0 (List.replicate 251 0), .cancel 0 (List.replicate 251 0), .jobStatus 0 (List.replicate 251 0),
      .clearEvents 0 (List.replicate 251 0), .setBayConfig 0 (List.replicate 251 0),
      .getBayConfig 0 (List.replicate 251 0), .setLinkConfig 0 (List.replicate 251 0),
      .getLinkConfig 0 (List.replicate 251 0), .getCounters 0 (List.replicate 251 0),
      .openSession 0 (List.replicate 251 0), .closeSession 0 (List.replicate 251 0),
      .restart 0 (List.replicate 251 0), .ack 0 (List.replicate 251 0),
      .unknownRequest 0x06 0 (List.replicate 251 0)] : List Instr), c.wellFormed = false := by decide +kernel

theorem test_unknown_request_names_no_request :
    Instr.wellFormed (.unknownRequest 0x03 0 []) = false ∧ Instr.wellFormed (.unknownRequest 0x10 0 [0, 1]) = false ∧
      Instr.wellFormed (.unknownRequest 0x10 0 [0, 5]) = true ∧ Instr.wellFormed (.unknownRequest 0x10 0 [0]) = true ∧
      Instr.wellFormed (.unknownRequest 0x06 0 []) = true := by decide +kernel

theorem test_no_word_spells_a_command : decodeTableWord 8 0 = none := rfl

/-! ## Worked examples of the spec -/

/-- 11, R186: the check of an implementation. -/
theorem test_crc_check_value :
    crc16 [0x31, 0x32, 0x33, 0x34, 0x35, 0x36, 0x37, 0x38, 0x39] = 0x29B1 := by decide +kernel

/-- The record of 04, Example: a valid record with a coded serial. -/
def exampleRecord : List Byte :=
  [0x01, 0x03, 0x12, 0x04, 0x00, 0x07, 0x06, 0x41, 0x00, 0x00, 0x00, 0x00, 0x07, 0x91]

theorem test_example_record_is_valid :
    identityOf? 14 exampleRecord = some ⟨0x0312, 0x04, 0x0007, [0x41, 0, 0, 0, 0, 0x07]⟩ := by decide +kernel

/-- The three failing variants of the same example. -/
theorem test_example_record_variants_fail :
    identityOf? 13 exampleRecord = none ∧ identityOf? 14 (exampleRecord.set 4 0x80) = none ∧
      identityOf? 15 exampleRecord = none := by decide +kernel

/-- 03, Example: an EXCHANGE with coded data: the forward coder's cuts. -/
def exampleMessage (position : Nat) : Engine :=
  { Engine.atReset with
    message := ⟨2, true, true, [0xAA, 0xAA, 0xAA, 0xAA, 0x10, 0x20, 0x20, 0x20], 6⟩, position := position }

theorem test_example_message_is_cut :
    (exampleMessage 0).nextPiece = .repeatCount 4 ∧ (exampleMessage 4).nextPiece = .data 1 ∧
      (exampleMessage 5).nextPiece = .repeatCount 3 ∧ (exampleMessage 8).nextPiece = .endMark := by decide +kernel

/-- 05, Example: filling the buffer pool: the blocks each job needs. -/
theorem test_example_blocks :
    blocksNeeded 10 (some 200) = 7 ∧ blocksNeeded 240 none = 8 ∧ blocksNeeded 33 none = 2 ∧
      blocksNeeded 64 (some 64) = 2 ∧ blocksNeeded 0 (some 240) = 8 ∧ blocksNeeded 100 none = 4 := by decide

/-- 08, Example: a stray SYNC before a frame: nothing is found until the gap, then the PING. -/
theorem test_stray_sync_gives_the_frame_back :
    let ping : Frame := ⟨0x03, 0x01, [0x11, 0x22]⟩
    search 10 (0x5A :: ping.bytes) = ⟨[], 0, 0x5A :: ping.bytes⟩ ∧ search 8 ping.bytes = ⟨[ping], 0, []⟩ := by
  decide +kernel

/-- A frame whose CRC is wrong, before a good one (R149, R150). -/
theorem test_bad_crc_is_discarded :
    let ping : Frame := ⟨0x03, 0x01, []⟩
    search 12 ([0x5A, 0x02, 0x03, 0x01, 0x00, 0x00] ++ ping.bytes) = ⟨[ping], 1, []⟩ := by decide +kernel

/-- R148, R164: the time of a frame of 6 characters at 115200 bit/s is 520.8 µs, counted as 530 µs. -/
theorem test_frame_time : frameTime 0 6 = 53 ∧ frameTime 3 6 = 2 := by decide

/-! ## States for the witnesses -/

/-- A seated module in a bay with its latch closed. -/
def seated : Bay :=
  { Bay.atReset with state := .present, presence := true, presenceLine := true, latchClosed := true, latchLine := true }

/-- The same with power on and good, in a given state. -/
def powered (st : BayState) : Bay := { seated with state := st, pgood := true, pen := true, mrst := false }

def exampleIdentity : Identity := ⟨0x0312, 0x04, 0x0007, []⟩

/-- An ACTIVE bay that offers channels 0 to 2. -/
def activeBay : Bay := { powered .active with identity := some exampleIdentity, powerLed := ⟨.auto, .on⟩ }

/-- The reset state with bay 0 as given. -/
def withBay (r : Bay) : State := State.reset.setBay 0 r

/-- The same with a session open. -/
def linkUp (s : State) : State := { s with handler := { s.handler with link := .up, nonce := some 1, session := 1 } }

/-- The engine with work for bay 0 in a given state. -/
def busy (st : EngineState) (w : Work) : Engine :=
  { Engine.atReset with state := st, work := some w, selected := some 0, selv := true, lastUsed := some 0 }

def withEngine (e : Engine) : State := { State.reset with engine := e }

/-- The reset state with these reports on their way. -/
def handing (s : State) (l : List Report) : State := { s with handed := l }

/-- A WAITING job of bay 0, and an ACTIVE one. -/
def waitingJob (tag : Word16) : Slot :=
  { Slot.free with state := .waiting, tag := tag, outLength := 1, blocks := [0], deadline := some 100 }

def activeJob (tag : Word16) : Slot := { Slot.free with state := .active, tag := tag, outLength := 1, blocks := [1] }

def doneJob (tag : Word16) : Slot := { Slot.free with state := .donePending, tag := tag, final := some .done }

/-- A session with bay 0 ACTIVE, one job WAITING in slot 0 and one ACTIVE in slot 1, on the bus. -/
def working : State :=
  { ((((linkUp (withBay { activeBay with liveJobs := 2 })).setSlot 0 (waitingJob 1)).setSlot 1 (activeJob 2)).setQueue 0
      [0]) with
    engine :=
      { busy .forward (.job 1) with
        handshake := .strobed, item := some .channel, drive := some ⟨true, 0⟩, byteTimer := some 10, stb := true } }

/-! ## The step, reset, sideband inputs -/

theorem test_EmptyQueueGoesOn_met :
    State.reset.pending = [] ∧ State.reset.handed = [] ∧ State.reset.boundaryDue = false ∧
      State.reset.grantDue = false ∧ State.reset.port.arrivals = [] := by decide +kernel

theorem test_EmptyQueueGoesOn_finds_work :
    (∃ r rest, (handing State.reset [.release 0 false]).handed = r :: rest) ∧
      (let s : State := { State.reset with handler := { State.reset.handler with replies := [⟨⟨0x83, 0, [0]⟩, false⟩] } }
      s.handed = [] ∧ s.boundaryDue = true) ∧
      (let s := withBay { powered .identifying with read := .candidate }
      s.handed = [] ∧ s.boundaryDue = false ∧ s.grantDue = true) ∧
      (let s : State := { State.reset with port := { State.reset.port with arrivals := [⟨0x03, 0, []⟩] } }
      s.handed = [] ∧ s.boundaryDue = false ∧ s.grantDue = false ∧ ∃ f rest, s.port.arrivals = f :: rest) :=
  ⟨⟨_, _, rfl⟩, by decide +kernel, by decide +kernel, by decide +kernel, by decide +kernel, by decide +kernel, _, _, rfl⟩

/-- A frame of no request kind, and the BAY-COMMAND payloads that name none of the four commands. -/
theorem test_EmptyQueueGoesOn_finds_unknown :
    (∀ c ∈ ([0x00, 0x05, 0xFF] : List Byte), c = 0x00 ∨ 5 ≤ c.toNat) ∧ (∀ b c : Byte, [0x00] ≠ [b, c]) ∧
      (0x06 : Byte) ∉ ([0x01, 0x02, 0x03, 0x04, 0x05, 0x08, 0x09, 0x0A, 0x10, 0x11, 0x12, 0x13, 0x14, 0x18, 0x19, 0x1A,
        0x1B, 0x1C] : List Byte) := ⟨by decide, by simp, by decide⟩

theorem test_HardwareResetStartsAgain_met :
    (State.reset.engine.ack = false ∧ State.reset.engine.revack = false) ∧
      ((withEngine { Engine.atReset with ack := true }).engine.ack = true ∨
        (withEngine { Engine.atReset with ack := true }).engine.revack = true) := by decide +kernel

theorem test_PresenceChangesAreTaken_met :
    (let s := withBay { Bay.atReset with presenceLine := true, presenceCount := some 1 }
    (s.bay 0).state = .empty ∧ (s.bay 0).presence = false ∧ (s.bay 0).presenceLine = true ∧
      (s.bay 0).presenceCount.isSome) ∧
      (let s := withBay { activeBay with presenceLine := false, presenceCount := some 1 }
      (s.bay 0).state ≠ .empty ∧ (s.bay 0).presence = true ∧ (s.bay 0).presenceLine = false ∧
        (s.bay 0).presenceCount.isSome) := by decide +kernel

theorem test_LatchChangesAreTaken_met :
    (∀ st ∈ [BayState.empty, .present, .draining, .poweringDown, .faulted],
      let s := withBay { powered st with latchLine := false, latchCount := some 1 }
      (s.bay 0).latchCount.isSome ∧ (s.bay 0).latchLine ≠ (s.bay 0).latchClosed ∧ (s.bay 0).state = st) ∧
      (∀ st ∈ [BayState.powering, .identifying, .active, .resetting], ∀ good : Bool, ∀ action ∈ [LatchAction.orderly, .immediate],
        let s := (withBay { powered st with latchLine := false, latchCount := some 1, pgood := good }).setBayConfig 0
          { BayConfig.atReset with latchAction := action }
        (s.bay 0).latchCount.isSome ∧ (s.bay 0).latchLine = false ∧ (s.bay 0).latchClosed = true ∧
          (s.bay 0).state = st ∧ (s.bay 0).pgood = good ∧ (s.bayConfig 0).latchAction = action) := by decide +kernel

theorem test_AttentionChangesAreTaken_met :
    (let s := withBay { activeBay with attnLine := true, attnCount := some 1 }
    (s.bay 0).attnCount.isSome ∧ (s.bay 0).attnLine = true ∧ (s.bay 0).pressed = false ∧ (s.bay 0).LedsLegal) ∧
      (let s := withBay { activeBay with pressed := true, attnCount := some 1 }
      (s.bay 0).attnCount.isSome ∧ (s.bay 0).attnLine = false ∧ (s.bay 0).pressed = true) := by
  simp only [Bay.LedsLegal]; decide +kernel

theorem test_PowerLineChangesAreTaken_met :
    (let r := (withBay { powered .powering with powerPhase := some .ramp, pgood := false }).bay 0
    r.pgood = false ∧ r.state = .powering ∧ r.powerPhase = some .ramp ∧ r.pfault = false) ∧
      (let r := (withBay { powered .powering with powerPhase := some .settle }).bay 0
      r.pgood = true ∧ r.state = .powering ∧ r.powerPhase = some .settle) ∧
      (let r := (withBay (powered .poweringDown)).bay 0
      r.pgood = true ∧ r.state = .poweringDown) ∧
      (∀ st ∈ [BayState.empty, .present, .faulted, .identifying, .active, .resetting, .draining],
        let r := (withBay (powered st)).bay 0
        r.pgood = true ∧ r.pfault = false ∧ r.state = st) := by decide +kernel

/-! ## Bay timers -/

theorem test_PowerTimersFaultBay_met :
    (let r := (withBay { powered .powering with powerPhase := some .ramp, powerUpTimer := some 1 }).bay 0
    r.state = .powering ∧ r.powerPhase = some .ramp ∧ r.powerUpTimer.isSome) ∧
      (let r := (withBay { powered .poweringDown with dischargeTimer := some 1 }).bay 0
      r.state = .poweringDown ∧ r.dischargeTimer.isSome) := by decide +kernel

theorem test_SettleExpiryEntersIdentifying_met :
    (let r := (withBay { powered .powering with powerPhase := some .settle, settleTimer := some 1 }).bay 0
    r.settleTimer.isSome ∧ r.state = .powering ∧ r.powerPhase = some .settle) ∧
      (let r := (withBay { powered .resetting with resetPhase := some .settle, settleTimer := some 1 }).bay 0
      r.settleTimer.isSome ∧ r.state = .resetting ∧ r.resetPhase = some .settle) := by decide +kernel

theorem test_ResetPulseExpiryStartsSettle_met :
    let r := (withBay { powered .resetting with resetPhase := some .pulse, pulseTimer := some 1 }).bay 0
    r.state = .resetting ∧ r.resetPhase = some .pulse ∧ r.pulseTimer.isSome := by decide +kernel

theorem test_HoldOffExpiryActsOnTarget_met :
    (let r := (withBay { activeBay with holdOff := some ⟨.off, 1⟩ }).bay 0
    r.holdOff = some ⟨.off, 1⟩ ∧ r.state = .active) ∧
      ∀ closed : Bool, let r := (withBay { seated with holdOff := some ⟨.on, 1⟩, latchClosed := closed }).bay 0
        r.holdOff = some ⟨.on, 1⟩ ∧ r.state = .present ∧ r.latchClosed = closed := by decide +kernel

/-! ## Requests -/

/-- A session with bay 0 as given executes every request (nothing cached, nothing queued). -/
theorem executes_linkUp (r : Bay) (f : Frame) : Executes (linkUp (withBay r)) f :=
  ⟨rfl, Nat.zero_lt_succ 7, fun _ h => nomatch h⟩

theorem executes_working (f : Frame) : Executes working f := ⟨rfl, by decide, fun _ h => nomatch h⟩

theorem test_RequestsSettledBeforeExecution_met :
    requestFrame? (.ping 0 []) = some ⟨0x03, 0, []⟩ ∧
      (let s : State := { State.reset with handler :=
          { State.reset.handler with replies := List.replicate 8 ⟨⟨0x83, 0, [0]⟩, false⟩ } }
      s.handler.link ≠ .stalled ∧ 8 ≤ s.handler.replies.length) ∧
      (State.reset.handler.replies.length < 8 ∧ State.reset.handler.link = .down) ∧
      (let s : State := { State.reset with handler :=
          { State.reset.handler with link := .up, cache := [⟨0, ⟨0x83, 0, [0]⟩⟩] } }
      s.handler.replies.length < 8 ∧ s.handler.link = .up ∧ s.handler.cache = [] ++ ⟨0, ⟨0x83, 0, [0]⟩⟩ :: []) := by
  decide +kernel

/-- Accepted frames that wait, and a frame that is not their head. -/
theorem test_RequestsSettledBeforeExecution_takes_frame :
    (let s : State := { State.reset with port := { State.reset.port with arrivals := [⟨0x03, 0, []⟩, ⟨0x03, 1, []⟩] } }
    s.port.arrivals = ⟨0x03, 0, []⟩ :: [⟨0x03, 1, []⟩] ∧ s.port.arrivals.head? ≠ some ⟨0x03, 1, []⟩) ∧
      State.reset.port.arrivals.head? ≠ some ⟨0x03, 0, []⟩ := by decide +kernel

theorem test_FirstFrameEndsStall_met :
    arrivingFrame? (.ack 0 [0]) = some ⟨0x05, 0, [0]⟩ ∧
      ({ State.reset with handler := { State.reset.handler with link := .stalled } } : State).handler.link = .stalled := by
  decide +kernel

theorem test_MalformedRequestsChangeNothing_met :
    (Instr.wellFormed (.ping 0 (List.replicate 17 0)) = true ∧
      requestFrame? (.ping 0 (List.replicate 17 0)) = some ⟨0x03, 0, List.replicate 17 0⟩ ∧
      lengthAllowed 0x03 17 = false) ∧
      8 ≤ (0x08 : Byte).toNat ∧ requestFrame? (.powerOn 0 0x08) = some ⟨0x10, 0, [0x08, 0x01]⟩ ∧
      requestFrame? (.indicate 0 [0x08, 0, 0]) = some ⟨0x11, 0, [0x08, 0, 0]⟩ ∧
      Executes (linkUp State.reset) ⟨0x03, 0, List.replicate 17 0⟩ ∧ Executes (linkUp State.reset) ⟨0x10, 0, [0x08, 0x01]⟩ ∧
      Executes (linkUp State.reset) ⟨0x06, 0, []⟩ ∧ Executes (linkUp State.reset) ⟨0x10, 0, [0x00, 0x05]⟩ ∧
      Executes (linkUp State.reset) ⟨0x10, 0, [0x00]⟩ :=
  ⟨by decide +kernel, by decide, rfl, rfl, ⟨rfl, by decide, fun _ h => nomatch h⟩, ⟨rfl, by decide, fun _ h => nomatch h⟩,
    ⟨rfl, by decide, fun _ h => nomatch h⟩, ⟨rfl, by decide, fun _ h => nomatch h⟩, ⟨rfl, by decide, fun _ h => nomatch h⟩⟩

theorem test_BayCommandLeavesBayAsItIs_met :
    (0x00 : Byte).toNat = (0 : BayNo).val ∧
      requestFrame? (bayRequest .powerOn 0 0x00) = some ⟨0x10, 0, [0x00, 0x01]⟩ ∧
      (∀ x ∈ [(LongCommand.powerOn, BayState.empty, (0x23 : Byte)), (.powerOn, .active, 0x00), (.powerOn, .faulted, 0x20),
          (.powerOn, .draining, 0x21), (.powerOff, .present, 0x00), (.resetModule, .present, 0x20),
          (.resetModule, .draining, 0x21)],
        unchangedStatus? x.1 ((linkUp (withBay (powered x.2.1))).bay 0) = some x.2.2) ∧
      unchangedStatus? .powerOn ((linkUp (withBay { seated with latchClosed := false })).bay 0) = some 0x22 ∧
      Executes (linkUp (withBay (powered .active))) ⟨0x10, 0, [0x00, 0x01]⟩ :=
  ⟨rfl, rfl, by decide +kernel, by decide +kernel, executes_linkUp _ _⟩

theorem test_LongCommandsAreAccepted_met :
    (Executes (linkUp (withBay seated)) ⟨0x10, 0, [0x00, 0x01]⟩ ∧ ((linkUp (withBay seated)).bay 0).state = .present ∧
      ((linkUp (withBay seated)).bay 0).latchClosed = true) ∧
      (∀ st, Executes (linkUp (withBay (powered st))) ⟨0x10, 0, [0x00, 0x02]⟩ ∧
        ((linkUp (withBay (powered st))).bay 0).state = st ∧ ((linkUp (withBay (powered st))).bay 0).pending = none) ∧
      (Executes (linkUp (withBay activeBay)) ⟨0x10, 0, [0x00, 0x03]⟩ ∧
        ((linkUp (withBay activeBay)).bay 0).state = .active) :=
  ⟨⟨executes_linkUp _ _, rfl, rfl⟩, fun _ => ⟨executes_linkUp _ _, rfl, rfl⟩, executes_linkUp _ _, rfl⟩

theorem test_ClearFaultNeedsPowerGone_met :
    Executes (linkUp (withBay (powered .faulted))) ⟨0x10, 0, [0x00, 0x04]⟩ ∧
      ∀ good : Bool, ((linkUp (withBay { powered .faulted with pgood := good })).bay 0).state = .faulted ∧
        ((linkUp (withBay { powered .faulted with pgood := good })).bay 0).pgood = good :=
  ⟨executes_linkUp _ _, by decide +kernel⟩

theorem test_IndicateStoresSetting_met :
    Executes (linkUp (withBay seated)) ⟨0x11, 0, [0x07, 0x01, 0x03]⟩ ∧ (0x07 : Byte).toNat = (7 : BayNo).val ∧
      ((0x03 : Byte), Setting.auto) ∈ [((0x00 : Byte), Setting.off), (0x01, .on), (0x02, .blink), (0x03, .auto)] ∧
      Executes (linkUp (withBay seated)) ⟨0x11, 0, [0x07, 0x02, 0x00]⟩ ∧ 2 ≤ (0x02 : Byte).toNat ∧ 4 ≤ (0x04 : Byte).toNat :=
  ⟨executes_linkUp _ _, rfl, by decide, executes_linkUp _ _, by decide, by decide⟩

theorem test_ReadingRequestsChangeNothing_met :
    (List.replicate 16 (0 : Byte)).length ≤ 16 ∧ Executes (linkUp (withBay activeBay)) ⟨0x03, 0, List.replicate 16 0⟩ ∧
      Executes (linkUp (withBay activeBay)) ⟨0x12, 0, [0x07]⟩ ∧ Executes (linkUp (withBay activeBay)) ⟨0x13, 0, [0x00]⟩ ∧
      Executes (linkUp (withBay activeBay)) ⟨0x12, 0, [0x08]⟩ ∧ 8 ≤ (0x08 : Byte).toNat ∧
      (0x07 : Byte).toNat = (7 : BayNo).val :=
  ⟨by decide, executes_linkUp _ _, executes_linkUp _ _, executes_linkUp _ _, executes_linkUp _ _, by decide, rfl⟩

/-! ## The Module Bus -/

theorem test_GrantSelectsNextWork_met :
    (let s := withBay { powered .identifying with read := .candidate }
    s.engine.state = .idle ∧ (∀ j : SlotNo, (s.slot j).state ≠ .active) ∧ (s.bay 0).read = .candidate ∧
      ∀ c : BayNo, (s.bay c).read = .candidate → scanPlace s.lastServed 0 ≤ scanPlace s.lastServed c) ∧
      (let s := ((withBay activeBay).setSlot 0 (waitingJob 1)).setQueue 0 [0]
      s.engine.state = .idle ∧ (∀ i : SlotNo, (s.slot i).state ≠ .active) ∧ (∀ c : BayNo, (s.bay c).read ≠ .candidate) ∧
        (s.bay 0).state = .active ∧ s.queue 0 = 0 :: [] ∧ (s.queue 0).Nodup ∧ (s.slot 0).bay = 0 ∧
        ∀ c : BayNo, (s.bay c).state = .active → s.queue c ≠ [] →
          scanPlace s.lastServed 0 ≤ scanPlace s.lastServed c) := by decide +kernel

theorem test_ForwardBytesCross_met :
    (let e := { busy .forward (.job 0) with handshake := .strobed }
    e.state = .forward ∧ e.abortStep ≠ some .waitLines ∧ e.ack = false ∧ e.handshake = .strobed) ∧
      (let e := { busy .aborting (.job 0) with abortStep := some .sendAbort, ack := true, handshake := .due }
      e.state = .aborting ∧ e.abortStep ≠ some .waitLines ∧ e.ack = true ∧ e.handshake = .due) ∧
      (∀ i ∈ [ForwardItem.channel, .repeatCount 3, .data 1, .endMark], ∀ x : Bool,
        let e := { busy .forward (.job 0) with
                    ack := true, handshake := .acked, item := some i, message := ⟨0, x, false, [1], 0⟩ }
        e.state = .forward ∧ e.selected = some 0 ∧ e.work ≠ none ∧ e.ack = true ∧ e.handshake = .acked ∧
          e.abortStep = none ∧ e.item = some i ∧ e.message.exchange = x) := by decide +kernel

theorem test_ForwardCoderCutsRuns_met :
    (exampleMessage 8).message.outData.length ≤ (exampleMessage 8).position ∧
      (exampleMessage 0).message.outData.drop 0 = List.replicate 4 0xAA ++ [0x10, 0x20, 0x20, 0x20] ∧
      (exampleMessage 4).message.outData.drop 4 = List.replicate 1 0x10 ++ [0x20, 0x20, 0x20] ∧
      (exampleMessage 5).message.outData.drop 5 = List.replicate 3 0x20 ++ [] ∧
      ([0x10, 0x20, 0x20, 0x20] : List Byte).head? ≠ some 0xAA ∧ ([] : List Byte).head? ≠ some 0x20 ∧
      (exampleMessage 0).message.compress = true := by decide +kernel

/-- The engine in the offer wait with room for two more bytes. -/
def offering (b : BusByte) (rep : Option Nat) : Engine :=
  { busy .reverse (.job 0) with
    handshake := .offer, revack := true, rev := true, message := ⟨0, true, false, [], 2⟩, modByte := b,
    pendingRepeat := rep }

theorem test_OffersAreExamined_met :
    (let e := busy .turning (.job 0)
    e.state = .turning ∧ e.selected = some 0 ∧ e.work ≠ none ∧ e.ending = none ∧ e.bytesIn ≤ e.message.inLimit ∧
      e.revack = false) ∧
      (let e := offering ⟨false, 0⟩ none
      e.state = .reverse ∧ e.handshake = .offer ∧ e.selected = some 0 ∧ e.work ≠ none ∧ e.ending = none ∧
        e.bytesIn ≤ e.message.inLimit ∧ e.ack = false) ∧
      (let e := offering ⟨false, 0⟩ (some 2)
      e.modByte.cmd = false ∧ e.bytesIn + e.pendingRepeat.getD 1 ≤ e.message.inLimit) ∧
      (let e := offering ⟨false, 0⟩ (some 3)
      e.modByte.cmd = false ∧ e.message.inLimit < e.bytesIn + e.pendingRepeat.getD 1) ∧
      (let e := offering ⟨true, 0x10⟩ none
      e.modByte = ⟨true, 0x10⟩ ∧ e.pendingRepeat = none) ∧
      (let e := offering ⟨true, 0x81⟩ none
      e.modByte.cmd = true ∧ 0x81 ≤ e.modByte.data.toNat ∧ e.pendingRepeat = none) ∧
      (let e := offering ⟨true, 0x80⟩ none
      e.modByte.cmd = true ∧ e.modByte.data ≠ 0x10 ∧ e.modByte.data.toNat ≤ 0x80) ∧
      (let e := offering ⟨true, 0x10⟩ (some 2)
      e.modByte.cmd = true ∧ e.pendingRepeat ≠ none) := by decide +kernel

theorem test_ReversePhaseCloses_met :
    (∀ h ∈ [Handshake.taken, .takenEnd],
      let e := { busy .reverse (.job 0) with handshake := h, ack := true, revack := true }
      e.state = .reverse ∧ e.selected = some 0 ∧ e.work ≠ none ∧ e.abortStep = none ∧ e.ack = true ∧ e.handshake = h) ∧
      (let e := offering ⟨false, 0⟩ none
      e.state = .reverse ∧ e.revack = true ∧ e.handshake ≠ .takenEnd) ∧
      (∀ other : Bool, let e := { busy .turningBack (.job 0) with ack := true, revack := other }
        e.selected = some 0 ∧ e.work ≠ none ∧ e.state = .turningBack ∧ e.ack = true ∧ e.revack = other) ∧
      (∀ other : Bool,
        let e := { busy .aborting (.job 0) with abortStep := some .waitLines, revack := true, ack := other }
        e.selected = some 0 ∧ e.work ≠ none ∧ e.state = .aborting ∧ e.abortStep = some .waitLines ∧ e.revack = true ∧
          e.ack = other) := by decide +kernel

theorem test_BusTimersExpire_met :
    (∀ st ∈ [EngineState.forward, .reverse], let e := { busy st (.job 0) with byteTimer := some 1 }
      e.selected = some 0 ∧ e.work ≠ none ∧ e.byteTimer.isSome ∧ e.state = st ∧ e.handshake ≠ .takenEnd) ∧
      (let e := { busy .reverse (.job 0) with byteTimer := some 1, handshake := .takenEnd }
      e.byteTimer.isSome ∧ e.state = .reverse ∧ e.handshake = .takenEnd ∧ e.abortStep = none) ∧
      (∀ a ∈ [AbortStep.finishByte, .sendAbort],
        let e := { busy .aborting (.job 0) with byteTimer := some 1, abortStep := some a }
        e.byteTimer.isSome ∧ e.state = .aborting ∧ e.abortStep = some a) ∧
      (∀ st ∈ [EngineState.turning, .turningBack, .aborting], let e := { busy st (.job 0) with turnTimer := some 1 }
        e.selected = some 0 ∧ e.work ≠ none ∧ e.turnTimer.isSome ∧ e.state = st) := by decide +kernel

theorem test_HeldBusIsWatched_met :
    (Engine.atReset.state = .idle ∧ Engine.atReset.ack = false ∧ Engine.atReset.revack = false) ∧
      (let e := { Engine.atReset with state := .held, ack := true, revack := true, heldTimer := some 1 }
      e.state = .held ∧ e.ack = true ∧ e.revack = true ∧ e.heldTimer.isSome) ∧
      ∀ ack : Bool, let e := { Engine.atReset with state := .held, ack := ack, revack := !ack, heldTimer := some 1 }
        e.state = .held ∧ (e.ack = false ∨ e.revack = false) := by decide +kernel

/-- The edges that only move their line, each level the line can have before (R55, R59, R62 to R64, R72). -/
theorem test_HeldBusIsWatched_moves_lines :
    ∀ high : Bool,
      (∀ e ∈ [{ busy .forward (.job 0) with revack := high },
          { busy .aborting (.job 0) with abortStep := some .finishByte, revack := high },
          { busy .aborting (.job 0) with abortStep := some .sendAbort, revack := high }],
        (e.state = .forward ∨ e.state = .aborting ∧ e.abortStep ≠ some .waitLines) ∧ e.revack = high) ∧
        (let e := { busy .reverse (.job 0) with handshake := .takenEnd, revack := high }
        e.state = .reverse ∧ e.handshake = .takenEnd ∧ e.revack = high) ∧
        (let e := { busy .turning (.job 0) with ack := high }
        e.state = .turning ∧ e.ack = high) ∧
        ∀ e ∈ [{ busy .turningBack (.job 0) with ack := high, revack := !high },
            { busy .aborting (.job 0) with abortStep := some .waitLines, ack := high, revack := !high }],
          (e.state = .turningBack ∨
              e.state = .aborting ∧ e.abortStep = some .waitLines ∧ e.handshake = .none) ∧
            (e.ack = false ∨ e.revack = false) := by decide +kernel

theorem test_AbortsAndAbandonsAreTaken_met :
    (Engine.atReset.work ≠ some (.job 0)) ∧
      (∀ st ∈ [EngineState.forward, .turning, .reverse, .turningBack, .aborting],
        (busy st (.job 0)).work = some (.job 0) ∧ (busy st (.job 0)).selected = some 0 ∧ (busy st (.job 0)).state = st) ∧
      (let e := { busy .forward (.job 0) with handshake := .due, ack := true }
      e.state = .forward ∧ e.handshake = .due) ∧
      (∀ a ∈ [AbortStep.finishByte, .sendAbort], ∀ i ∈ [ForwardItem.channel, .data 2, .abort],
        let e := { busy .aborting (.job 0) with abortStep := some a, ack := true, handshake := .acked, item := some i }
        e.state = .aborting ∧ e.selected = some 0 ∧ e.work ≠ none ∧ e.ack = true ∧ e.handshake = .acked ∧
          e.abortStep = some a ∧ e.item = some i) := by decide +kernel

/-! ## Reports -/

theorem test_BusWaitIsTestedAgain_met :
    (∀ earlier : Bool,
      let s := handing (withBay { powered .draining with read := .leaving, powerLed := ⟨.auto, .blink⟩ })
        [.release 0 earlier, .liveCount 0 0 true, .liveCount 0 1 false]
      (s.bay 0).LedsLegal ∧ s.handed = [] ++ .release 0 earlier :: [.liveCount 0 0 true, .liveCount 0 1 false] ∧
        s.handed = [.release 0 earlier] ++ .liveCount 0 0 true :: [.liveCount 0 1 false]) ∧
      (∀ x, Report.release 0 x ∉ ([] : List Report)) ∧ ∀ x m f, Report.liveCount 0 m f ∉ [Report.release 0 x] := by
  simp only [Bay.LedsLegal]; exact ⟨by decide +kernel, by simp, by simp⟩

/-- R86, R87: with the new read LEAVING, the release report of an earlier message leaves the bay waiting in DRAINING, and the
read's own release report takes it on. -/
theorem test_earlier_release_leaves_read :
    let s := withBay { powered .draining with read := .leaving, powerLed := ⟨.auto, .blink⟩ }
    ∃ t u, exec (.releaseReport 0) (handing s [.release 0 true, .release 0 false]) = .next t ∧
      exec (.releaseReport 0) t = .next u ∧ t.bay 0 = s.bay 0 ∧ (u.bay 0).state = .poweringDown ∧
      (u.bay 0).read = .noRead := ⟨_, _, rfl, rfl, by decide +kernel, by decide +kernel, by decide +kernel⟩

/-- R83, R133: the ending of an earlier read, still on its way at the grant of a new one, leaves the new read ON-BUS. -/
theorem test_earlier_ending_leaves_read :
    ∃ t u, exec .grant (handing (withBay { powered .identifying with read := .candidate })
        [.identityEnding 0 .done 14 exampleRecord false]) = .next t ∧
      exec (.identityEndingReport 0) t = .next u ∧ u.bay 0 = t.bay 0 ∧ (u.bay 0).read = .onBus ∧
      u.engine.work = some (.identity 0) := ⟨_, _, rfl, rfl, by decide +kernel, by decide +kernel, by decide +kernel⟩

theorem test_TimeoutsAreCountedAndFaultBay_met :
    (∀ x ∈ [Ending.done, .byteTimeout, .turnTimeout, .protocol], ∀ n ∈ [0, 2, 15],
      let s := handing (withBay { activeBay with timeouts := n }) [.timeoutAccounting 0 x]
      s.handed = [] ++ .timeoutAccounting 0 x :: [] ∧ (s.bay 0).timeouts = n ∧ (s.bayConfig 0).faultLimit = 3) ∧
      (∀ y, Report.timeoutAccounting 0 y ∉ ([] : List Report)) ∧
      (∀ st ∈ [BayState.empty, .faulted, .active], let s := handing (withBay (powered st)) [.busFault 0]
        s.handed = [] ++ .busFault 0 :: [] ∧ (s.bay 0).state = st) :=
  ⟨by decide +kernel, by simp, by decide +kernel⟩

theorem test_IdentityOutcomeIsTaken_met :
    (∀ x ∈ [Ending.done, .protocol], ∀ earlier : Bool,
      let s := handing (withBay { powered .identifying with read := .onBus })
        [.identityEnding 0 x 14 exampleRecord earlier]
      s.handed = [] ++ .identityEnding 0 x 14 exampleRecord earlier :: [] ∧ (s.bay 0).state = .identifying ∧
        (s.bay 0).read = .onBus) ∧
      (∀ y m l z, Report.identityEnding 0 y m l z ∉ ([] : List Report)) ∧
      (identityOf? 14 exampleRecord).isSome ∧ identityOf? 13 exampleRecord = none ∧
      ¬((activeBay.state = .identifying) ∧ activeBay.read = .onBus) :=
  ⟨by decide +kernel, by simp, by decide +kernel⟩

theorem test_IdentityRecordIsChecked_met :
    (let d : Identity := ⟨0x0312, 0x04, 0x0007, [0x41, 0, 0, 0, 0, 0x07]⟩
    d.serial.length ≤ 16 ∧ d.channelMap.getLsbD 15 = false ∧ d.channelMap ≠ 0 ∧
      ([0x01, hi d.moduleClass, lo d.moduleClass, d.revision, hi d.channelMap, lo d.channelMap, byteOf d.serial.length] ++
        d.serial ++ [0x91]).foldl (· + ·) (0 : Byte) = 0) ∧
      (7 < 8 ∧ 16 < ((exampleRecord.set 6 0x11).getD 6 0).toNat ∧ 13 ≠ 8 + (exampleRecord.getD 6 0).toNat ∧
        (exampleRecord.set 0 0x02).getD 0 0 ≠ 0x01 ∧
        (word ((exampleRecord.set 4 0x80).getD 4 0) (exampleRecord.getD 5 0)).getLsbD 15 = true ∧
        word (exampleRecord.getD 4 0) ((exampleRecord.set 5 0).getD 5 0) = 0 ∧
        ((exampleRecord.set 13 0x92).take 14).foldl (· + ·) (0 : Byte) ≠ 0) := by decide +kernel

theorem test_RaiseIsRecorded_met :
    (handing State.reset [.raise 0 0x80]).handed = [] ++ .raise 0 0x80 :: [] ∧
      ∀ x, Report.raise 0 x ∉ ([] : List Report) := ⟨rfl, by simp⟩

/-! ## The Job Table -/

/-- The table of `working` keeps the laws that the statement about bay instructions asks for. -/
theorem working_jobsLegal : working.JobsLegal := by
  refine ⟨?_, ?_, ?_, ?_, ?_⟩
  · unfold State.SlotsLegal Slot.Legal; decide +kernel
  · unfold State.QueuesLegal; decide +kernel
  · unfold State.JobNoticeLaw; decide +kernel
  · unfold State.DownSilent; decide +kernel
  · unfold State.DownOrphans; decide +kernel

theorem working_oneActive : working.OneActive := by unfold State.OneActive; decide +kernel

theorem test_BayWorkIsTakenAway_met :
    working.JobsLegal ∧ working.OneActive ∧ (working.slot 0).state = .waiting ∧ (working.slot 1).state = .active ∧
      (working.slot 0).bay = 0 ∧ (working.slot 1).bay = 0 ∧ working.engine.work = some (.job 1) ∧
      working.engine.selected = some 0 ∧ (working.slot 1).mark = none ∧
      ∀ x ∈ [ReadStage.noRead, .candidate, .onBus, .leaving],
        ((withBay { powered .identifying with read := x }).bay 0).read = x :=
  ⟨working_jobsLegal, working_oneActive, by decide +kernel⟩

theorem test_JobsEndWithFinalStatus_met :
    (∀ x ∈ [Ending.done, .byteTimeout, .turnTimeout, .protocol, .overrun, .aborted, .abandoned],
      ∀ m ∈ [none, some AbortMark.cancel], ∀ o : Bool,
        let s := handing (working.setSlot 1 { activeJob 2 with mark := m, orphan := o }) [.jobEnding 1 x 1 0]
        s.handed = [] ++ .jobEnding 1 x 1 0 :: [] ∧ (s.slot 1).state = .active ∧ (s.slot 1).mark = m ∧
          (s.slot 1).orphan = o) ∧
      (∀ y o n, Report.jobEnding 1 y o n ∉ ([] : List Report)) ∧ (working.slot 0).state = .waiting ∧
      (working.slot 0).deadline.isSome :=
  ⟨by decide +kernel, by simp, by decide +kernel, by decide +kernel⟩

/-- An EXCHANGE at the largest values its fields admit, and a WRITE at the smallest. -/
def largestSubmit : SubmitFields :=
  { tag := 0xFFFF, bay := 0, channel := 2, kind := .exchange, compress := true, inLimit := some 240,
    deadline := some 65535, outData := List.replicate 240 0xFF }

def smallestSubmit : SubmitFields :=
  { tag := 0, bay := 7, channel := 14, kind := .write, compress := false, inLimit := none, deadline := none, outData := [0] }

theorem largest_submittable : Submittable largestSubmit := by
  refine ⟨by decide +kernel, by decide +kernel, fun h => absurd h (by decide +kernel),
    fun _ => ⟨240, rfl, by decide, by decide⟩, fun d h => ?_⟩
  obtain rfl : 65535 = d := Option.some.inj h
  decide

theorem smallest_submittable : Submittable smallestSubmit := by
  refine ⟨by decide +kernel, by decide +kernel, fun _ => ⟨by decide +kernel, rfl⟩, ?_, ?_⟩
  · intro h; exact absurd h (by decide +kernel)
  · intro d h; exact absurd h (by simp [smallestSubmit])

theorem test_SubmitPayloadIsReadBack_met : Submittable largestSubmit ∧ Submittable smallestSubmit :=
  ⟨largest_submittable, smallest_submittable⟩

/-- The session in which every check of SUBMIT passes. -/
def ready : State := linkUp (withBay activeBay)

theorem test_SubmitIsAcceptedOrRefused_accepts :
    Submittable largestSubmit ∧ Executes ready ⟨0x08, 0, submitPayload largestSubmit⟩ ∧
      (ready.bay largestSubmit.bay).state = .active ∧ (ready.bay largestSubmit.bay).identity = some exampleIdentity ∧
      exampleIdentity.channelMap.getLsbD largestSubmit.channel.toNat = true ∧
      (∀ i, (ready.slot i).state = .free) ∧ ready.liveCount largestSubmit.bay < 8 ∧ (8 : Nat) ≤ ready.freeBlocks.length ∧
      (max largestSubmit.outData.length (largestSubmit.inLimit.getD 0) + 31) / 32 = 8 :=
  ⟨largest_submittable, executes_linkUp _ _, rfl, rfl, by decide +kernel, by decide +kernel, by decide +kernel,
    by decide +kernel, by decide +kernel⟩

/-- Every slot filled by one, from slot 0 on. -/
def filled (s : State) (n : Nat) (k : Slot) : State :=
  { s with jobs := { s.jobs with slots := Vector.ofFn fun j => if j.val < n then k else Slot.free } }

theorem test_SubmitIsAcceptedOrRefused_refuses :
    (8 ≤ (0x08 : Byte).toNat ∧ 15 ≤ (0x0F : Byte).toNat ∧ 2 ≤ (0x02 : Byte).toNat ∧ 4 ≤ (0x04 : Byte).toNat ∧
      241 ≤ (0xF1 : Byte).toNat ∧ (0x02 : Byte).getLsbD 1 = true ∧ word 0 0 = 0) ∧
      ((linkUp State.reset).bay 0).state = .empty ∧ ((linkUp (withBay seated)).bay 0).state = .present ∧
      exampleIdentity.channelMap.getLsbD 3 = false ∧
      (let s := ready.setSlot 0 (doneJob 0xFFFF)
      (s.slot 0).state ≠ .free ∧ (s.slot 0).orphan = false ∧ (s.slot 0).tag = largestSubmit.tag) ∧
      (let s := filled ready 8 (waitingJob 1)
      8 ≤ s.liveCount 0 ∧ ∀ i, (s.slot i).tag ≠ largestSubmit.tag) ∧
      (let s := filled ready 32 (doneJob 1)
      s.liveCount 0 < 8 ∧ ∀ i, (s.slot i).state ≠ .free ∧ (s.slot i).tag ≠ largestSubmit.tag) ∧
      (let s := ready.setSlot 31 { doneJob 1 with blocks := List.finRange 48 }
      s.liveCount 0 < 8 ∧ (s.slot 0).state = .free ∧ s.freeBlocks.length < 8) := by decide +kernel

/-- A full pool of two blocks, out of order, from a byte in the first to the last byte of the second. -/
theorem test_SubmitIsAcceptedOrRefused_holds_bytes :
    Memory.wf [(0, 1), (1535, 2)] = true ∧ ([47, 0] : List BlockNo).Nodup ∧
      31 + (List.replicate 33 (1 : Byte)).length ≤ 32 * ([47, 0] : List BlockNo).length ∧
      ([47, 0] : List BlockNo)[(31 + 0) / 32]? = some 47 ∧ ([47, 0] : List BlockNo)[(31 + 32) / 32]? = some 0 := by
  decide +kernel

theorem test_CancelActsBySlotState_met :
    working.TagsDistinct ∧ Executes working ⟨0x09, 0, [hi 1, lo 1]⟩ ∧ Carries working 0 1 ∧ Carries working 1 2 ∧
      (∀ j, ¬Carries working j 3) ∧ (working.slot 1).mark = none ∧
      (let s := working.setSlot 2 (doneJob 3)
      Carries s 2 3 ∧ (s.slot 2).state = .donePending) ∧
      ((working.setSlot 1 { activeJob 2 with mark := some .cancel }).slot 1).mark ≠ none := by
  refine ⟨?_, executes_working _, ?_⟩
  · unfold State.TagsDistinct; decide +kernel
  · unfold Carries; decide +kernel

theorem test_JobStatusChangesNothing_met :
    working.TagsDistinct ∧ Executes working ⟨0x0A, 0, [hi 1, lo 1]⟩ ∧ (working.slot 0).state = .waiting ∧
      (working.slot 1).state = .active ∧ ((working.setSlot 2 (doneJob 3)).slot 2).state = .donePending := by
  refine ⟨?_, executes_working _, by decide +kernel⟩
  unfold State.TagsDistinct; decide +kernel

/-! ## Events, configuration, counters -/

theorem test_ClearEventsRaisesServiceAgain_met :
    Executes ready ⟨0x14, 0, [0x08, 0x07]⟩ ∧ (deviceSource : SourceNo).val = (0x08 : Byte).toNat ∧
      (0x07 : Byte) &&& ~~~0x07 = 0 ∧ (0x08 : Byte) &&& ~~~0x07 ≠ 0 ∧ 9 ≤ (0x09 : Byte).toNat ∧
      (let s := (linkUp (withBay { activeBay with service := true })).setSource 0 ⟨0x80, .noNotice, false, none⟩
      (s.source 0).set &&& 0x80 &&& SERVICE ≠ 0 ∧ (s.bay 0).state = .active ∧ (s.bay 0).service = true) :=
  ⟨executes_linkUp _ _, rfl, by decide, by decide, by decide, by decide +kernel⟩

theorem test_ConfigurationIsStoredAndReported_met :
    bayConfigInRange BayConfig.atReset ∧
      bayConfigInRange { BayConfig.atReset with faultLimit := 15, holdOff := 15, powerUp := 255 } ∧
      Executes ready ⟨0x18, 0, 0x00 :: bayConfigBytes BayConfig.atReset⟩ ∧
      Executes ready ⟨0x18, 0, 0xFF :: bayConfigBytes BayConfig.atReset⟩ ∧
      (bayConfigBytes BayConfig.atReset).length = 10 ∧ 8 ≤ (0x08 : Byte).toNat ∧ (0x08 : Byte) ≠ 0xFF ∧
      (5 ≤ (word 0x00 0x05).toNat ∧ (word 0x03 0xE8).toNat ≤ 1000 ∧ 1 ≤ (0x01 : Byte).toNat ∧ (0x08 : Byte).toNat ≤ 8) ∧
      ¬5 ≤ (word 0x00 0x04).toNat ∧ ¬(word 0x03 0xE9).toNat ≤ 1000 ∧ ¬(0x09 : Byte).toNat ≤ 8 := by
  refine ⟨?_, ?_, executes_linkUp _ _, executes_linkUp _ _, by decide +kernel⟩ <;>
    (unfold bayConfigInRange; decide +kernel)

theorem test_CountersAreReportedAndCleared_met :
    Executes ready ⟨0x1C, 0, [0x07, 0x01]⟩ ∧ Executes ready ⟨0x1C, 0, [0x08, 0x00]⟩ ∧
      (0x07 : Byte).toNat = (7 : BayNo).val ∧ 9 ≤ (0x09 : Byte).toNat ∧ 2 ≤ (0x02 : Byte).toNat :=
  ⟨executes_linkUp _ _, executes_linkUp _ _, rfl, by decide, by decide⟩

/-! ## The Carrier Link -/

theorem test_FrameIsReceivedByteByByte_met :
    let f : Frame := ⟨0x03, 0x01, []⟩
    f.payload.length ≤ 250 ∧ State.reset.port.buffer = [] ∧ f.bytes = [] ++ 0x5A :: [0x02, 0x03, 0x01, 0xE7, 0x8E] ∧
      f.bytes = [0x5A, 0x02, 0x03, 0x01, 0xE7] ++ 0x8E :: [] := by decide +kernel

/-- The reset state with these bytes held. -/
def held (l : List Byte) : State := { State.reset with port := { State.reset.port with buffer := l, gapTimer := some 1 } }

theorem test_DiscardedCandidateIsSearchedAgain_met :
    (State.reset.port.buffer = [] ∧ (0x00 : Byte) ≠ 0x5A) ∧
      ((held [0x5A]).port.buffer = [0x5A] ∧ (0x01 : Byte).toNat < 2 ∧ 252 < (0xFD : Byte).toNat ∧
        2 ≤ (0x02 : Byte).toNat ∧ (0xFC : Byte).toNat ≤ 252) ∧
      (∀ body ∈ ([[], [0x03, 0x01], [0x03, 0x01, 0x00]] : List (List Byte)),
        (held (0x5A :: 0x02 :: body)).port.buffer = 0x5A :: 0x02 :: body ∧
          (body.length + 1 < (0x02 : Byte).toNat + 2 ↔ body.length < 3)) ∧
      ((held [0x5A, 0x02, 0x03, 0x01, 0x00]).port.buffer = 0x5A :: 0x02 :: [0x03, 0x01] ++ [0x00] ∧
        2 ≤ (0x02 : Byte).toNat ∧ (0x02 : Byte).toNat ≤ 252 ∧ [(0x03 : Byte), 0x01].length = (0x02 : Byte).toNat ∧
        word 0x00 0x00 ≠ crc16 [0x02, 0x03, 0x01]) ∧
      ((held [0x5A, 0x5A]).port.gapTimer.isSome ∧ (held [0x5A, 0x5A]).port.buffer = 0x5A :: [0x5A]) := by decide +kernel

theorem test_SessionsStartAndEnd_met :
    (State.reset.handler.link ≠ .stalled ∧ State.reset.handler.link = .down ∧ State.reset.handler.replies.length < 8) ∧
      (ready.handler.link = .up ∧ ready.handler.nonce = some (word 0 1) ∧ ready.handler.nonce ≠ some (word 0 2)) ∧
      Executes working ⟨0x02, 0, []⟩ ∧ Executes working ⟨0x04, 0, []⟩ :=
  ⟨by decide +kernel, by decide +kernel, executes_working _, executes_working _⟩

/-- Two notices waiting for their ACK. -/
def unacked (due : Bool) : State :=
  { ready with
    transmitter := { ready.transmitter with unacked := [⟨.event 0, 0, due⟩, ⟨.event 8, 1, due⟩], next := 2, ackTimer := some 1 } }

theorem test_AckRemovesNotices_met :
    State.reset.handler.link = .down ∧ ready.handler.link = .up ∧ [(0 : Byte), 0].length ≠ 1 ∧
      (∀ u ∈ (unacked false).transmitter.unacked, u.number ≠ 2) ∧
      (unacked false).transmitter.unacked = [⟨.event 0, 0, false⟩] ++ ⟨.event 8, 1, false⟩ :: [] ∧
      (∀ u ∈ [(⟨.event 0, 0, false⟩ : Unacked)], u.number ≠ 1) := by decide +kernel

theorem test_FrameBoundarySendsNext_met :
    ready.port.sending = none ∧ ready.handler.replies = [] ∧ ready.handler.link = .up ∧
      ((unacked true).setSource 0 ⟨1, .sent, false, some (.bay 0 1 .active none none)⟩).transmitter.unacked =
        [] ++ ⟨.event 0, 0, true⟩ :: [⟨.event 8, 1, true⟩] ∧
      (((unacked true).setSource 0 ⟨1, .sent, false, some (.bay 0 1 .active none none)⟩).source 0).capture.isSome ∧
      (let s : State := { ready with transmitter := { ready.transmitter with pending := [.event 0] } }
      (∀ u ∈ s.transmitter.unacked, u.due = false) ∧ s.transmitter.unacked.length < 4 ∧
        s.transmitter.pending = .event 0 :: [] ∧ Notice.event 0 = .event (baySource 0)) ∧
      (∀ x ∈ ([(0, 115200), (3, 3000000)] : List (BitVec 2 × Nat)), linkRate x.1 = x.2) ∧
      ∀ n r : Bool, ({ unacked false with port := { ready.port with
          sending := some ⟨⟨0x42, 0, [1, 0]⟩, n, r, 1⟩ } } : State).port.sending = some ⟨⟨0x42, 0, [1, 0]⟩, n, r, 1⟩ := by
  decide +kernel

theorem test_AckExpiryRetriesOrStalls_met :
    (unacked false).transmitter.ackTimer.isSome ∧
      (unacked false).transmitter.retries + 1 ≤ (unacked false).config.link.retryLimit.toNat ∧
      (let s : State := { unacked false with transmitter := { (unacked false).transmitter with retries := 4 } }
      ¬s.transmitter.retries + 1 ≤ s.config.link.retryLimit.toNat) := by decide +kernel

/-- R157, R164: the reply to a PING on an idle LINK_TX starts within the step, and the reply queue is empty after it. -/
theorem test_reply_starts_at_once :
    ∃ t, exec (.ping 0 []) ready = .next t ∧ t.handler.replies = [] ∧
      t.port.sending = some ⟨⟨0x83, 0, [0]⟩, false, false, 61⟩ := ⟨_, rfl, by decide +kernel, by decide +kernel⟩

/-- Right after reset no timer, count or report of bay 0 runs, and every line is inactive. -/
theorem test_EventsThatCannotOccurChangeNothing_met :
    (State.reset.bay 0).presenceCount = none ∧ (State.reset.bay 0).latchCount = none ∧
      (State.reset.bay 0).attnCount = none ∧ (State.reset.bay 0).pgood = false ∧ (activeBay.pgood = true) ∧
      (State.reset.bay 0).powerUpTimer = none ∧ (State.reset.bay 0).holdOff = none ∧ State.reset.engine.ack = false ∧
      State.reset.engine.byteTimer = none ∧ (busy .forward (.job 0)).state ≠ .idle ∧ State.reset.port.gapTimer = none ∧
      State.reset.transmitter.ackTimer = none ∧ (State.reset.slot 0).deadline = none ∧ State.reset.handed = [] := by
  decide +kernel

/-! ## The invariants, in a state that is not the reset state -/

/-- `working` with a done job whose notice has been sent, and a command waiting. -/
def busyPart : State :=
  let s := working.setSlot 2 { doneJob 3 with state := .doneSent }
  { s with
    pending := [.blinkToggle], transmitter := { s.transmitter with unacked := [⟨.jobDone 2, 0, false⟩], next := 1, ackTimer := some 1 } }

theorem test_BayRecordsStayLegal_met : busyPart.BaysLegal ∧ ∃ t, step busyPart = .next t := by
  refine ⟨fun b => ⟨?_, ?_, ?_, ?_, ?_, ?_, ?_⟩, _, rfl⟩
  all_goals
    simp only [Bay.LinesLegal, Bay.FieldsLegal, Bay.TimersLegal, Bay.ReadLegal, Bay.PowerLegal, Bay.DebounceLegal,
      Bay.LedsLegal]
    revert b
    decide +kernel

theorem test_EngineStaysLegal_met : busyPart.engine.Legal := by
  refine ⟨?_, ?_, ?_, ?_, ?_⟩
  all_goals
    simp only [Engine.SelectionLegal, Engine.LinesLegal, Engine.HandshakeLegal, Engine.TimersLegal, Engine.CountsLegal]
    decide +kernel

theorem test_PoolStaysCanonical_met :
    Memory.wf (busyPart.setPool [(0, 1), (1535, 2)]).jobs.pool = true ∧
      (busyPart.setPool [(0, 1), (1535, 2)]).PoolBounded := by
  unfold State.PoolBounded; decide +kernel

theorem test_BlocksAndActiveJobStayApart_met : busyPart.BlocksApart ∧ busyPart.OneActive := by
  constructor
  · unfold State.BlocksApart; decide +kernel
  · unfold State.OneActive; decide +kernel

theorem test_JobTableStaysLegal_met : busyPart.TableLegal := by
  refine ⟨⟨?_, ?_, ?_, ?_, ?_⟩, ?_, ?_⟩
  · unfold State.SlotsLegal Slot.Legal; decide +kernel
  · unfold State.QueuesLegal; decide +kernel
  · unfold State.JobNoticeLaw; decide +kernel
  · unfold State.DownSilent; decide +kernel
  · unfold State.DownOrphans; decide +kernel
  · unfold State.TagsDistinct; decide +kernel
  · unfold State.LiveLimit; decide +kernel

theorem test_EventNoticesStayLegal_met : busyPart.EventsLegal := by
  unfold State.EventsLegal State.EventNoticeLaw State.DownUnstaged; decide +kernel

theorem test_LinkAndSettingsStayLegal_met :
    busyPart.LinkLegal ∧ busyPart.SettingsLegal ∧ busyPart.NoFrameWaits ∧
      (let s : State := { ready with
        handler := { ready.handler with replies := List.replicate 8 ⟨⟨0x83, 0, [0]⟩, false⟩ },
        port := { ready.port with sending := some ⟨⟨0x83, 0, [0]⟩, false, false, 1⟩ } }
      s.NoFrameWaits ∧ 8 ≤ s.handler.replies.length) := by
  refine ⟨?_, ?_, by unfold State.NoFrameWaits; decide +kernel⟩
  · simp only [State.LinkLegal, Handler.Legal, State.DeliveryLegal, Transmitter.WindowLegal]; decide +kernel
  · simp only [State.SettingsLegal, bayConfigInRange, linkConfigInRange]; decide +kernel

end Sys2Proof.Tests
end

section
/-! PROOFS. Which operations leave every bay record as it was, and that every step keeps the bay records legal
(R2, R6, R8, R9, R12, R30, R37, R44, R45, R79, R85, R86). -/

namespace Sys2Proof.Machine

open Sys2Proof.Claims

/-! ## Operations that leave every bay record as it was -/

@[simp] theorem State.unstall_bays (s : State) : s.unstall.bays = s.bays := by
  unfold State.unstall; split <;> rfl

@[simp] theorem State.takeFrame_bays (s : State) (f : Frame) : (s.takeFrame f).bays = s.bays := by
  simp [State.takeFrame]

/-- A frame that settles before step 7 of R154 reaches no bay. -/
theorem State.settled?_bays (s t : State) (f : Frame) (h : s.settled? f = some t) : t.bays = s.bays := by
  unfold State.settled? at h
  split at h
  · cases h; rfl
  · split at h
    · cases h; rfl
    · obtain ⟨r, -, rfl⟩ := Option.map_eq_some_iff.mp h
      rfl

@[simp] theorem State.answer_bays (s : State) (f r : Frame) : (s.answer f r).bays = s.bays := rfl

@[simp] theorem State.endSession_bays (s : State) (kept : List QueuedReply) : (s.endSession kept).bays = s.bays :=
  (congrArg State.bays (s.endSession_spec kept).1 :)

@[simp] theorem State.startSession_bays (s : State) (nonce : Word16) : (s.startSession nonce).bays = s.bays :=
  (congrArg State.bays (s.startSession_spec nonce).1 :)

@[simp] theorem State.requestEnd_bays (s : State) (f : Frame) (restart : Bool) :
    (s.requestEnd f restart).bays = s.bays := by
  simp only [State.requestEnd]
  split
  · next t h => exact (State.settled?_bays _ _ _ h).trans (by simp)
  · split <;> simp

@[simp] theorem State.requestUnknown_bays (s : State) (f : Frame) : (s.requestUnknown f).bays = s.bays := by
  simp only [State.requestUnknown]
  split
  · next t h => exact (State.settled?_bays _ _ _ h).trans (by simp)
  · split <;> simp

@[simp] theorem State.answerOpen_bays (s : State) (f : Frame) : (s.answerOpen f).bays = s.bays := rfl

@[simp] theorem State.requestOpen_bays (s : State) (f : Frame) : (s.requestOpen f).bays = s.bays := by
  have hq : ∀ (u : State) (r : Frame), (u.queueReply r false).bays = u.bays := fun _ _ => rfl
  have hd : ∀ u : State, u.dropFrame.bays = u.bays := fun _ => rfl
  simp only [State.requestOpen]
  repeat' split
  all_goals simp [hq, hd]

theorem State.noticesRemoved_bays (l : List Unacked) :
    ∀ s : State, (l.foldl (fun t u => t.noticeRemoved u.notice) s).bays = s.bays := by
  induction l with
  | nil => exact fun s => rfl
  | cons u l ih =>
    intro s
    refine (ih (s.noticeRemoved u.notice)).trans ?_
    cases u.notice with
    | jobDone j => rfl
    | event n => simp [State.noticeRemoved]

@[simp] theorem State.takeAck_bays (s : State) (n : Byte) : (s.takeAck n).bays = s.bays := by
  unfold State.takeAck
  split
  · exact State.noticesRemoved_bays _ _
  · rfl

@[simp] theorem State.requestAck_bays (s : State) (f : Frame) : (s.requestAck f).bays = s.bays := by
  have hs : ∀ u : State, u.staleAck.bays = u.bays := fun _ => rfl
  simp only [State.requestAck]
  split
  · simp
  · split <;> simp [hs]

@[simp] theorem State.ackExpired_bays (s : State) : s.ackExpired.bays = s.bays := by
  unfold State.ackExpired; simp only; split <;> rfl

@[simp] theorem State.noticeEnded_bays (s : State) : s.noticeEnded.bays = s.bays := by
  unfold State.noticeEnded; split <;> rfl

@[simp] theorem State.takeOffer_bays (s : State) : s.takeOffer.bays = s.bays := by
  have hs : s.storeOffer.bays = s.bays := by unfold State.storeOffer; split <;> rfl
  unfold State.takeOffer; split <;> simp [hs]

@[simp] theorem State.clearEvents_bays (s : State) (n : SourceNo) (mask : Byte) :
    (s.clearEvents n mask).bays = s.bays := by
  have hc : (s.clearBits n mask).bays = s.bays := rfl
  unfold State.clearEvents State.serviceAgain
  split <;> simp [hc]

@[simp] theorem State.acceptJob_bays (s : State) (j : SlotNo) (x : SubmitFields) : (s.acceptJob j x).bays = s.bays :=
  rfl

@[simp] theorem State.takeJobEnding_bays (s : State) (j : SlotNo) (x : Ending) (o n : Nat) :
    (s.takeJobEnding j x o n).bays = s.bays := by
  unfold State.takeJobEnding
  split
  · dsimp only; split <;> simp
  · rfl

@[simp] theorem State.grantJob_bays (s : State) (j : SlotNo) : (s.grantJob j).bays = s.bays := by
  simp [State.grantJob]

/-! ## A state whose bay records are legal -/

/-- Equal bay records are legal together. -/
theorem State.BaysLegal.of_bays {s t : State} (h : s.BaysLegal) (e : t.bays = s.bays) : t.BaysLegal :=
  fun b => (show t.bay b = s.bay b by simp only [State.bay, e]) ▸ h b

/-- Where one bay record changes, it is that record which has to be legal. -/
theorem State.BaysLegal.of_bay {s t : State} (h : s.BaysLegal) {b : BayNo} (hk : OtherBaysKept b s t)
    (hb : (t.bay b).Legal) : t.BaysLegal := fun c => by
  by_cases hc : c = b
  · exact hc ▸ hb
  · exact (hk c hc) ▸ h c

theorem State.BaysLegal.setBay {s : State} (h : s.BaysLegal) {b : BayNo} {r : Bay} (hr : r.Legal) :
    (s.setBay b r).BaysLegal :=
  h.of_bay (b := b) (fun c hc => by simp [hc]) (by simpa using hr)

theorem State.BaysLegal.actBay {s : State} (h : s.BaysLegal) {b : BayNo} {f : Bay → Bay × Byte}
    (hf : (f (s.bay b)).1.Legal) : (s.actBay b f).BaysLegal :=
  h.of_bay (b := b) (fun c hc => by simp [hc]) (by simpa using hf)

theorem State.BaysLegal.fillLine {s : State} (h : s.BaysLegal) : s.fillLine.BaysLegal := h.of_bays (by simp)

/-- A report taken changes the bay records as the receiver's action does. -/
theorem State.BaysLegal.takeReport {s : State} (h : s.BaysLegal) {α : Type} {sel : Report → Option α}
    {act : α → State → State} (hact : ∀ (a : α) (t : State), t.BaysLegal → (act a t).BaysLegal) :
    (s.takeReport sel act).BaysLegal := by
  unfold State.takeReport
  split
  · exact h
  · exact hact _ _ (h.of_bays rfl)

/-- The request keeps the bay records legal where its service does. -/
theorem State.BaysLegal.request {s : State} (h : s.BaysLegal) {f : Frame} {good : Bool} {serve : State → Served}
    (hserve : ∀ t : State, t.BaysLegal → (serve t).1.BaysLegal) : (s.request f good serve).fillLine.BaysLegal := by
  refine State.BaysLegal.fillLine ?_
  have h1 : (s.takeFrame f).BaysLegal := h.of_bays (by simp)
  simp only [State.request]
  split
  · next t ht => exact h1.of_bays (State.settled?_bays _ _ _ ht)
  · split
    · exact (hserve _ h1).of_bays (by simp)
    · exact h1.of_bays (by simp)

/-- A request that names a bay keeps the bay records legal where its service for a bay does. -/
theorem State.BaysLegal.forBay {s : State} (h : s.BaysLegal) {byte : Byte} {serve : BayNo → Served}
    (hserve : ∀ b, (serve b).1.BaysLegal) : (s.forBay byte serve).1.BaysLegal := by
  unfold State.forBay
  split
  · exact hserve _
  · exact h

/-! ## Transitions of one bay -/

/-- The record of a bay whose work is taken away (R11, R86). -/
theorem State.takeWork_bay_workTaken (s : State) (b : BayNo) (i : BayInstruction) :
    (s.takeWork b i).bay b = (s.bay b).workTaken ((s.takeWork b i).liveCount b) i.readDisposal :=
  s.takeWork_bay_self b i

/-- A transition that takes the bay's work changes that bay record only. -/
theorem State.BaysLegal.takeWork_actBay {s : State} (h : s.BaysLegal) {b : BayNo} {i : BayInstruction}
    {f : Bay → Bay × Byte} (hf : ∀ n, (f ((s.bay b).workTaken n i.readDisposal)).1.Legal) :
    ((s.takeWork b i).actBay b f).BaysLegal :=
  h.of_bay (b := b) (fun c hc => by simp [hc]) (by
    rw [State.actBay_bay_self, State.takeWork_bay_workTaken]
    exact hf _)

/-- Entry to FAULTED from a record that need only be steady and seated (R12). -/
theorem State.faultBay_baysLegal {s : State} (b : BayNo) (k : FaultCause) (ho : ∀ c, c ≠ b → (s.bay c).Legal)
    (hs : (s.bay b).Steady) (hp : (s.bay b).presence = true) : (s.faultBay b k).BaysLegal := fun c => by
  by_cases hc : c = b
  · subst hc
    rw [State.faultBay_bay_self, State.takeWork_bay_workTaken]
    exact Bay.legal_fault _ _ _ hs hp
  · rw [State.faultBay_bay_ne _ _ _ _ hc]
    exact ho c hc

theorem State.BaysLegal.faultBay {s : State} (h : s.BaysLegal) {b : BayNo} (k : FaultCause)
    (hs : (s.bay b).state ≠ .empty) : (s.faultBay b k).BaysLegal :=
  State.faultBay_baysLegal b k (fun c _ => h c) (h b).steady ((h b).present hs)

theorem State.BaysLegal.busFault {s : State} (h : s.BaysLegal) (b : BayNo) : (s.busFault b).BaysLegal := by
  unfold State.busFault
  split
  · exact h
  · next hs => exact h.faultBay .bus fun he => hs (.inl he)

/-- A loss of power is seen only with a module in the bay (R6). -/
theorem Bay.state_ne_empty_of_powerLost {r : Bay} (h : r.powerLost = true) : r.state ≠ .empty := by
  intro he
  simp [Bay.powerLost, he] at h

/-- A power line has moved, and the loss of power it may show is taken (R6, R26). -/
theorem State.BaysLegal.testPower {s : State} (h : s.BaysLegal) {b : BayNo} {pg pf : Bool}
    (hd : (s.bay b).state = .poweringDown → pg = true) :
    ((s.setBay b { s.bay b with pgood := pg, pfault := pf }).testPower b).BaysLegal := by
  unfold State.testPower
  rw [State.setBay_bay_self]
  split
  · next hl =>
    have hs : (s.bay b).state ≠ .empty := (Bay.state_ne_empty_of_powerLost hl :)
    refine State.faultBay_baysLegal b .power (fun c hc => by simpa [hc] using h c) ?_ ?_ <;>
      rw [State.setBay_bay_self]
    · exact (h b).steady
    · exact (h b).present hs
  · next hl => exact h.setBay (Bay.legal_powerLines _ _ _ (h b) hd (by simpa using hl))

/-- Entry to POWERING from PRESENT, with the power lines tested (R13, R14). -/
theorem State.BaysLegal.enterPowering {s : State} (h : s.BaysLegal) {b : BayNo} (o : Origin)
    (hs : (s.bay b).state = .present) : (s.enterPowering b o).BaysLegal := by
  have keptLine : (((s.bay b).accept .powerOn o).ramp (s.bayConfig b)).pfault = (s.bay b).pfault := rfl
  have keptGood : (((s.bay b).accept .powerOn o).ramp (s.bayConfig b)).pgood = (s.bay b).pgood := rfl
  simp only [State.enterPowering, State.setBay_bay_self, State.setBay_bayConfig, keptLine, keptGood]
  split
  · obtain ⟨hsteady, hpres⟩ := Bay.steady_ramp _ o (s.bayConfig b) (h b) hs
    refine State.faultBay_baysLegal b .power (fun c hc => by simpa [hc] using h c) ?_ ?_ <;>
      rwa [State.setBay_bay_self]
  · next hf =>
    obtain ⟨hramp, hsettle⟩ := Bay.legal_ramp _ o (s.bayConfig b) (h b) hs (by simpa using hf)
    split
    · next hg => exact (h.setBay hramp).setBay (hsettle hg)
    · exact h.setBay hramp

theorem State.BaysLegal.powerOff {s : State} (h : s.BaysLegal) {b : BayNo} (o : Origin)
    (hs : (s.bay b).state ≠ .empty) : (s.powerOff b o).BaysLegal :=
  h.takeWork_actBay fun n => Bay.legal_powerOff _ n o _ (h b) hs

theorem State.BaysLegal.supersede {s : State} (h : s.BaysLegal) {b : BayNo} (hs : (s.bay b).state ≠ .empty) :
    (s.supersede b).BaysLegal :=
  h.takeWork_actBay fun n => Bay.legal_supersede _ n _ (h b) hs

theorem State.BaysLegal.adopt {s : State} (h : s.BaysLegal) {b : BayNo}
    (hs : (s.bay b).state = .draining ∨ (s.bay b).state = .poweringDown) : (s.adopt b).1.BaysLegal := by
  unfold State.adopt
  split
  · exact h
  · exact h.setBay (Bay.legal_adopt _ _ (h b) hs)

theorem State.BaysLegal.resetBay {s : State} (h : s.BaysLegal) {b : BayNo} (hs : (s.bay b).state = .active) :
    (s.resetBay b).BaysLegal :=
  h.of_bay (b := b) (fun c hc => by simp [State.resetBay, hc]) (by
    simp only [State.resetBay, State.setBay_bay_self, State.takeWork_bay_workTaken]
    exact Bay.legal_resetModule _ _ (h b) hs)

/-- The states in which a latch opening acts hold a module (R4). -/
theorem BayState.ne_empty_of_latchActs {x : BayState} (h : x.latchActs = true) : x ≠ .empty := by
  rintro rfl; cases h

theorem State.BaysLegal.latchOpened {s : State} (h : s.BaysLegal) {b : BayNo} (hs : (s.bay b).state ≠ .empty) :
    (s.latchOpened b).BaysLegal := by
  unfold State.latchOpened
  split
  · exact h.takeWork_actBay fun n => Bay.legal_orderly _ n _ (h b) hs
  · exact h.takeWork_actBay fun n => Bay.legal_immediate _ n _ (h b) hs

theorem State.BaysLegal.endHoldOff {s : State} (h : s.BaysLegal) (b : BayNo) :
    (s.setBay b (s.bay b).endHoldOff).BaysLegal :=
  h.setBay (Bay.legal_holdOff _ none (h b) (by simp))

theorem State.BaysLegal.holdOffExpired {s : State} (h : s.BaysLegal) (b : BayNo) (x : HoldOffTarget) :
    (s.holdOffExpired b x).BaysLegal := by
  have hend := h.endHoldOff b
  have state_kept : ((s.setBay b (s.bay b).endHoldOff).bay b).state = (s.bay b).state := by
    rw [State.setBay_bay_self]; rfl
  cases x with
  | off =>
    simp only [State.holdOffExpired]
    split
    · next hs => exact hend.powerOff _ (by rw [state_kept, hs]; simp)
    · exact hend
  | on =>
    simp only [State.holdOffExpired]
    split
    · next hs => exact hend.enterPowering _ (state_kept.trans hs.1)
    · exact hend

/-! ## Reports that a bay takes -/

/-- The live job count is no part of the law of a bay record. -/
theorem Bay.Legal.setLiveJobs {r : Bay} (h : r.Legal) (n : Nat) : ({ r with liveJobs := n } : Bay).Legal := h

theorem Bay.legal_takeLive (r : Bay) (c : BayConfig) (n : Nat) (fell : Bool) (h : r.Legal) :
    (r.takeLive c n fell).1.Legal := by
  unfold Bay.takeLive
  split
  · exact Bay.legal_retest _ _ (h.setLiveJobs n)
  · exact h.setLiveJobs n

/-- A read that is being aborted is gone (R86). -/
theorem Bay.legal_readReleased (r : Bay) (earlier : Bool) (h : r.Legal) : (r.readReleased earlier).Legal := by
  unfold Bay.readReleased
  split
  · next hr =>
    obtain ⟨hl, hf, ht, ⟨-, hleave, hid, hempty⟩, hp, hd, hled⟩ := h
    have hs : r.state = .draining := hleave hr.1
    exact ⟨hl, hf, ht, ⟨by simp [hs], by simp, hid, hempty⟩, hp, hd, hled⟩
  · exact h

theorem countAfter_le (x : Ending) (n : Nat) (h : n ≤ 15) : countAfter x n ≤ 15 := by
  cases x <;> simp only [countAfter] <;> omega

theorem Bay.legal_setTimeouts (r : Bay) (n : Nat) (h : r.Legal) (hn : n ≤ 15) :
    ({ r with timeouts := n } : Bay).Legal := by
  obtain ⟨hl, ⟨hpp, hrp, hc, hpr, hho, hpe, -⟩, hrest⟩ := h
  exact ⟨hl, ⟨hpp, hrp, hc, hpr, hho, hpe, hn⟩, hrest⟩

theorem State.BaysLegal.account {s : State} (h : s.BaysLegal) (b : BayNo) (x : Ending) :
    (s.account b x).BaysLegal := by
  have h1 : (s.setBay b { s.bay b with timeouts := countAfter x (s.bay b).timeouts }).BaysLegal :=
    h.setBay (Bay.legal_setTimeouts _ _ (h b) (countAfter_le x _ (h b).steady.2))
  simp only [State.account]
  split
  · exact h1.busFault b
  · exact h1

/-- The outcome of a read, from the record with its read gone and so not legal in between (R17, R18). -/
theorem State.BaysLegal.takeOutcome {s : State} (h : s.BaysLegal) {b : BayNo} (d : Option Identity)
    (hs : (s.bay b).state = .identifying) : (s.takeOutcome b d).BaysLegal := by
  cases d with
  | some d =>
    refine h.of_bay (b := b) (fun c hc => by simp [State.takeOutcome, hc]) ?_
    simp only [State.takeOutcome, State.actBay_bay_self, State.setRead_bay_self]
    exact Bay.legal_activate _ d (h b) hs
  | none =>
    refine State.faultBay_baysLegal b .identity (fun c hc => by simpa [hc] using h c) ?_ ?_ <;>
      rw [State.setRead_bay_self]
    · exact (h b).steady
    · exact (h b).present (by simp [hs])

theorem State.BaysLegal.takeReadEnding {s : State} (h : s.BaysLegal) (b : BayNo) (x : ReadEnding) :
    (s.takeReadEnding b x).BaysLegal := by
  have h1 : (s.countTimeout b x.ending).BaysLegal := h.of_bays (by simp)
  simp only [State.takeReadEnding]
  split
  · next hs => exact h1.takeOutcome _ (by simpa using hs.1)
  · exact h1

/-! ## Grants, time and reset -/

theorem State.BaysLegal.grant {s : State} (h : s.BaysLegal) : s.grant.BaysLegal := by
  unfold State.grant
  split
  · split
    · next b hb =>
      have hc : (s.bay b).read = .candidate := by
        unfold State.choice? at hb
        split at hb
        · next c hc =>
          cases hb
          simpa [State.readCandidate] using List.find?_some hc
        · obtain ⟨j, -, hj⟩ := Option.map_eq_some_iff.mp hb
          cases hj
      refine h.of_bay (b := b) (fun c hc => by simp [State.grantRead, hc]) ?_
      simp only [State.grantRead, State.selectWork_frame, State.setBay_bay_self]
      exact Bay.legal_grant _ (h b) hc
    · exact h.of_bays (by simp)
    · exact h
  · exact h

theorem tick_running (x : Option Ticks) : (tick x).isSome ↔ x.isSome := by cases x <;> rfl

/-- The passing of 10 µs starts and stops no timer (R9). -/
theorem Bay.legal_tick (r : Bay) (h : r.Legal) : r.tick.Legal := by
  have hho : (r.holdOff.map HoldOff.tick).isSome = r.holdOff.isSome := Option.isSome_map
  have hpow : r.tick.autoPower = r.autoPower := by
    unfold Bay.autoPower Bay.tick; simp only [hho]
  obtain ⟨hl, ⟨hpp, hrp, hc, hpr, hhold, hpe, hto⟩, ⟨t1, t2, t3, t4⟩, hread, hp, ⟨d1, d2, d3⟩, l1, l2⟩ := h
  refine ⟨hl, ⟨hpp, hrp, hc, hpr, hho ▸ hhold, hpe, hto⟩, ?_, hread, hp, ?_, ⟨hpow ▸ l1, l2⟩⟩
  · exact ⟨(tick_running _).trans t1, (tick_running _).trans t2, (tick_running _).trans t3, (tick_running _).trans t4⟩
  · exact ⟨(tick_running _).trans d1, (tick_running _).trans d2, (tick_running _).trans d3⟩

theorem State.BaysLegal.tick {s : State} (h : s.BaysLegal) : s.tick.BaysLegal := fun b => by
  have e : s.tick.bay b = (s.bay b).tick := by simp [State.tick, State.bay]
  rw [e]
  exact Bay.legal_tick _ (h b)

/-- The part's own events and the passing of time (assumption log 7). -/
theorem State.BaysLegal.idle {s : State} (h : s.BaysLegal) : s.idle.BaysLegal := by
  unfold State.idle
  split
  · exact h.of_bays rfl
  · split
    · exact h.of_bays rfl
    · split
      · exact h.of_bays rfl
      · split
        · exact h.of_bays rfl
        · exact h.tick

theorem State.hardwareReset_bay (s : State) (cause : ResetCause) (straps : BitVec 2) (b : BayNo) :
    (s.hardwareReset cause straps).bay b = (s.bay b).hardwareReset := by
  simp [State.hardwareReset, State.bay]

theorem State.hardwareReset_baysLegal (s : State) (cause : ResetCause) (straps : BitVec 2) :
    (s.hardwareReset cause straps).BaysLegal := fun b => by
  rw [State.hardwareReset_bay]
  exact Bay.legal_hardwareReset _

theorem State.BaysLegal.frameEnded {s : State} (h : s.BaysLegal) (f : Sending) : (s.frameEnded f).BaysLegal := by
  simp only [State.frameEnded]
  split
  · exact State.hardwareReset_baysLegal _ _ _
  · split
    · exact h.of_bays (by simp)
    · exact h.of_bays (by simp)

end Sys2Proof.Machine
end

section
/-! PROOFS. Every command keeps the bay records legal, block by block; so every step does. -/

namespace Sys2Proof.Machine

open Sys2Proof.Claims

/-! ## Requests that a bay serves -/

theorem State.BaysLegal.servePowerOn {s : State} (h : s.BaysLegal) (b : BayNo) : (s.servePowerOn b).1.BaysLegal := by
  unfold State.servePowerOn
  split
  case h_2 hs =>
    split
    · exact h.enterPowering .link hs
    · exact h
  all_goals exact h

theorem State.BaysLegal.servePowerOff {s : State} (h : s.BaysLegal) (b : BayNo) :
    (s.servePowerOff b).1.BaysLegal := by
  have seated {x : BayState} (hs : (s.bay b).state = x) (hx : x ≠ .empty) : (s.bay b).state ≠ .empty := hs ▸ hx
  unfold State.servePowerOff
  split
  case h_4 hs => exact h.supersede (seated hs nofun)
  case h_5 hs => exact h.supersede (seated hs nofun)
  case h_6 hs => exact h.supersede (seated hs nofun)
  case h_7 hs =>
    dsimp only
    exact h.powerOff .link (seated hs nofun)
  case h_8 hs => exact h.adopt (.inl hs)
  case h_9 hs => exact h.adopt (.inr hs)
  all_goals exact h

theorem State.BaysLegal.serveResetModule {s : State} (h : s.BaysLegal) (b : BayNo) :
    (s.serveResetModule b).1.BaysLegal := by
  unfold State.serveResetModule
  split
  case h_4 hs => exact h.resetBay hs
  all_goals exact h

theorem State.BaysLegal.serveClearFault {s : State} (h : s.BaysLegal) (b : BayNo) :
    (s.serveClearFault b).1.BaysLegal := by
  unfold State.serveClearFault
  split
  case h_2 hs =>
    split
    · exact h
    · exact h.setBay (Bay.legal_clearFault _ (h b) hs)
  all_goals exact h

theorem Bay.legal_setIndicator (r : Bay) (isAttention : Bool) (v : Setting) (h : r.Legal) :
    (r.setIndicator isAttention v).Legal := by
  cases isAttention
  · exact Bay.legal_setSetting r { r.powerLed with setting := v } r.attnLed h
  · exact Bay.legal_setSetting r r.powerLed { r.attnLed with setting := v } h

theorem State.BaysLegal.serveIndicate {s : State} (h : s.BaysLegal) (p : List Byte) :
    (s.serveIndicate p).1.BaysLegal := by
  refine h.forBay fun b => ?_
  split
  · split
    · exact h.setBay (Bay.legal_setIndicator _ _ _ (h b))
    · exact h
  · exact h

/-! ## Requests that reach no bay record -/

theorem State.BaysLegal.serveSubmit {s : State} (h : s.BaysLegal) (p : List Byte) : (s.serveSubmit p).1.BaysLegal := by
  unfold State.serveSubmit
  split
  · exact h
  · split
    · exact h.of_bays (by simp)
    · exact h
    · exact h

theorem State.BaysLegal.serveCancel {s : State} (h : s.BaysLegal) (p : List Byte) : (s.serveCancel p).1.BaysLegal := by
  unfold State.serveCancel
  split
  · unfold State.cancelSlot
    split
    · exact h.of_bays (by simp)
    · unfold State.cancelActive
      split
      · exact h.of_bays rfl
      · exact h
    all_goals exact h
  · exact h

theorem State.BaysLegal.serveJobStatus {s : State} (h : s.BaysLegal) (p : List Byte) :
    (s.serveJobStatus p).1.BaysLegal := by
  unfold State.serveJobStatus
  split <;> exact h

theorem State.BaysLegal.serveClearEvents {s : State} (h : s.BaysLegal) (p : List Byte) :
    (s.serveClearEvents p).1.BaysLegal := by
  unfold State.serveClearEvents
  split
  · split
    · exact h
    · exact h.of_bays (by simp)
  · exact h

theorem State.BaysLegal.serveSetBayConfig {s : State} (h : s.BaysLegal) (p : List Byte) :
    (s.serveSetBayConfig p).1.BaysLegal := by
  unfold State.serveSetBayConfig
  split
  · next bs c _ _ => exact h.of_bays (congrArg State.bays (storeBayConfigs_spec bs c s).1 :)
  · exact h

theorem State.BaysLegal.serveSetLinkConfig {s : State} (h : s.BaysLegal) (p : List Byte) :
    (s.serveSetLinkConfig p).1.BaysLegal := by
  unfold State.serveSetLinkConfig
  split
  · exact h.of_bays rfl
  · exact h

theorem State.BaysLegal.serveGetCounters {s : State} (h : s.BaysLegal) (p : List Byte) :
    (s.serveGetCounters p).1.BaysLegal := by
  have hclear : ∀ n, (s.clearCounters n).bays = s.bays := fun n => by unfold State.clearCounters; split <;> rfl
  unfold State.serveGetCounters
  split
  · split
    · exact h
    · split
      · exact h.of_bays (hclear _)
      · exact h
  · exact h

/-! ## The sideband inputs and the timers of a bay -/

/-- A count that is due has its line at the level it runs toward (R2). -/
theorem Bay.presenceLine_of_due {r : Bay} {x : Bool} (h : r.presenceDue x = true) : r.presenceLine = x := by
  simp only [Bay.presenceDue, Bool.and_eq_true, beq_iff_eq] at h
  exact h.1.2

theorem Bay.attnLine_of_due {r : Bay} {x : Bool} (h : r.pressDue x = true) : r.attnLine = x := by
  simp only [Bay.pressDue, Bool.and_eq_true, beq_iff_eq] at h
  exact h.1.2

theorem State.BaysLegal.presenceAssert {s : State} (h : s.BaysLegal) (b : BayNo) :
    ∃ t, exec (.presenceAssert b) s = .next t ∧ t.BaysLegal := by
  refine ⟨_, rfl, ?_⟩
  split
  · next hd =>
    obtain ⟨hdue, hs⟩ := hd
    exact h.actBay (Bay.legal_insert _ (h b) hs (Bay.presenceLine_of_due hdue))
  · exact h

theorem State.BaysLegal.presenceLoss {s : State} (h : s.BaysLegal) (b : BayNo) :
    ∃ t, exec (.presenceLoss b) s = .next t ∧ t.BaysLegal := by
  refine ⟨_, rfl, ?_⟩
  split
  · next hd =>
    exact (h.takeWork_actBay fun n => Bay.legal_remove _ n (h b) (Bay.presenceLine_of_due hd.1)).fillLine
  · exact h

theorem State.BaysLegal.latchChange {s : State} (h : s.BaysLegal) (b : BayNo) :
    ∃ t, exec (.latchChange b) s = .next t ∧ t.BaysLegal := by
  refine ⟨_, rfl, ?_⟩
  split
  · split
    · next ho => exact (h.latchOpened (BayState.ne_empty_of_latchActs ho.2)).fillLine
    · exact h.actBay (Bay.legal_recordLatch _ (h b))
  · exact h

theorem State.BaysLegal.attentionPress {s : State} (h : s.BaysLegal) (b : BayNo) :
    ∃ t, exec (.attentionPress b) s = .next t ∧ t.BaysLegal := by
  refine ⟨_, rfl, ?_⟩
  split
  · next hdue =>
    have h1 : (s.setBayCounters b (s.bayCounters b).press).BaysLegal := h.of_bays rfl
    exact h1.actBay (Bay.legal_press _ _ (h1 b) (Bay.attnLine_of_due hdue))
  · exact h

theorem State.BaysLegal.attentionRelease {s : State} (h : s.BaysLegal) (b : BayNo) :
    ∃ t, exec (.attentionRelease b) s = .next t ∧ t.BaysLegal := by
  refine ⟨_, rfl, ?_⟩
  split
  · next hdue =>
    exact h.setBay (Bay.legal_release _ (h b) (Bay.attnLine_of_due hdue))
  · exact h

theorem State.BaysLegal.pgoodRise {s : State} (h : s.BaysLegal) (b : BayNo) :
    ∃ t, exec (.pgoodRise b) s = .next t ∧ t.BaysLegal := by
  refine ⟨_, rfl, ?_⟩
  split
  · exact h
  · next hg => exact h.setBay (Bay.legal_pgoodRise _ _ (h b) (by simpa using hg))

theorem State.BaysLegal.pgoodFall {s : State} (h : s.BaysLegal) (b : BayNo) :
    ∃ t, exec (.pgoodFall b) s = .next t ∧ t.BaysLegal := by
  refine ⟨_, rfl, ?_⟩
  split
  · refine State.BaysLegal.fillLine ?_
    split
    · next hs =>
      refine h.of_bay (b := b) (fun c hc => by simp [hc]) ?_
      rw [State.actBay_bay_self, State.setBay_bay_self]
      exact Bay.legal_discharged _ (h b) hs
    · next hs => exact h.testPower (pg := false) (pf := (s.bay b).pfault) fun hd => absurd hd hs
  · exact h

theorem State.BaysLegal.pfaultAssert {s : State} (h : s.BaysLegal) (b : BayNo) :
    ∃ t, exec (.pfaultAssert b) s = .next t ∧ t.BaysLegal := by
  refine ⟨_, rfl, ?_⟩
  split
  · exact h
  · obtain ⟨-, -, -, -, ⟨-, good_in_poweringDown⟩, -⟩ := h b
    exact (h.testPower (pg := (s.bay b).pgood) (pf := true) good_in_poweringDown).fillLine

theorem State.BaysLegal.settleExpiry {s : State} (h : s.BaysLegal) (b : BayNo) (x : BayState)
    (hx : x = .powering ∨ x = .resetting) :
    (if (s.bay b).settleTimer.isSome ∧ (s.bay b).state = x then s.setBay b (s.bay b).identify else s).BaysLegal := by
  split
  · next ht => exact h.setBay (Bay.legal_identify _ (h b) ht.1 (ht.2 ▸ hx))
  · exact h

theorem State.BaysLegal.resetPulseExpiry {s : State} (h : s.BaysLegal) (b : BayNo) :
    ∃ t, exec (.resetPulseExpiry b) s = .next t ∧ t.BaysLegal := by
  refine ⟨_, rfl, ?_⟩
  split
  · next ht => exact h.setBay (Bay.legal_pulseDone _ _ (h b) ht.1 ht.2)
  · exact h

theorem State.BaysLegal.powerUpExpiry {s : State} (h : s.BaysLegal) (b : BayNo) :
    ∃ t, exec (.powerUpExpiry b) s = .next t ∧ t.BaysLegal := by
  refine ⟨_, rfl, ?_⟩
  split
  · next ht => exact (h.faultBay .powerUp (by simp [ht.2])).fillLine
  · exact h

theorem State.BaysLegal.dischargeExpiry {s : State} (h : s.BaysLegal) (b : BayNo) :
    ∃ t, exec (.dischargeExpiry b) s = .next t ∧ t.BaysLegal := by
  refine ⟨_, rfl, ?_⟩
  split
  · next ht => exact (h.faultBay .discharge (by simp [ht.2])).fillLine
  · exact h

theorem State.BaysLegal.holdOffExpiry {s : State} (h : s.BaysLegal) (b : BayNo) :
    ∃ t, exec (.holdOffExpiry b) s = .next t ∧ t.BaysLegal := by
  refine ⟨_, rfl, ?_⟩
  split
  · exact (h.holdOffExpired b _).fillLine
  · exact h

/-! ## Commands that reach no bay record -/

/-- A command that runs under a condition, and leaves every bay record as it is. -/
theorem State.BaysLegal.ite_bays {s t u : State} (h : s.BaysLegal) {p : Prop} [Decidable p] (ht : t.bays = s.bays)
    (hu : u.bays = s.bays) : (if p then t else u).BaysLegal := by
  split
  · exact h.of_bays ht
  · exact h.of_bays hu

/-- The abort requests taken by the engine reach no bay. -/
theorem State.takeAbort_bays (s : State) (w : Work) :
    (s.takeReport (Report.abortOf? w) fun _ t => t).bays = s.bays := by
  rw [State.takeAbortReport_eq]

theorem State.BaysLegal.frameSent {s : State} (h : s.BaysLegal) :
    ∃ t, exec .frameSent s = .next t ∧ t.BaysLegal := by
  refine ⟨_, rfl, ?_⟩
  split
  · exact h.frameEnded _
  · exact h.of_bays (by simp)

/-! ## The whole machine -/

/-- Every command answers a next state, and keeps the bay records legal. -/
theorem exec_baysLegal (i : Instr) {s : State} (h : s.BaysLegal) : ∃ t, exec i s = .next t ∧ t.BaysLegal := by
  cases i with
  -- the sideband inputs and the timers of a bay
  | hardwareReset cause straps => exact ⟨_, rfl, State.hardwareReset_baysLegal s cause straps⟩
  | sidebandLineEdge b line x => exact ⟨_, rfl, h.setBay (Bay.legal_edge _ line x (h b))⟩
  | presenceAssert b => exact h.presenceAssert b
  | presenceLoss b => exact h.presenceLoss b
  | latchChange b => exact h.latchChange b
  | attentionPress b => exact h.attentionPress b
  | attentionRelease b => exact h.attentionRelease b
  | pgoodRise b => exact h.pgoodRise b
  | pgoodFall b => exact h.pgoodFall b
  | pfaultAssert b => exact h.pfaultAssert b
  | pfaultDeassert b => exact ⟨_, rfl, h.setBay (Bay.legal_pfaultDeassert _ (h b))⟩
  | srqChange b x => exact ⟨_, rfl, h.actBay (h b)⟩
  | powerUpExpiry b => exact h.powerUpExpiry b
  | settleExpiryPowering b => exact ⟨_, rfl, h.settleExpiry b .powering (.inl rfl)⟩
  | resetPulseExpiry b => exact h.resetPulseExpiry b
  | settleExpiryResetting b => exact ⟨_, rfl, h.settleExpiry b .resetting (.inr rfl)⟩
  | dischargeExpiry b => exact h.dischargeExpiry b
  | holdOffExpiry b => exact h.holdOffExpiry b
  | blinkToggle => exact ⟨_, rfl, h.of_bays rfl⟩
  -- requests that a bay serves
  | powerOn seq bay => exact ⟨_, rfl, h.request fun t ht => ht.forBay fun b => ht.servePowerOn b⟩
  | powerOff seq bay => exact ⟨_, rfl, h.request fun t ht => ht.forBay fun b => ht.servePowerOff b⟩
  | resetModule seq bay => exact ⟨_, rfl, h.request fun t ht => ht.forBay fun b => ht.serveResetModule b⟩
  | clearFault seq bay => exact ⟨_, rfl, h.request fun t ht => ht.forBay fun b => ht.serveClearFault b⟩
  | indicate seq p => exact ⟨_, rfl, h.request fun t ht => ht.serveIndicate p⟩
  | bayStatus seq p => exact ⟨_, rfl, h.request fun t ht => ht.forBay fun _ => ht⟩
  | bayIdentity seq p => exact ⟨_, rfl, h.request fun t ht => ht.forBay fun _ => ht⟩
  -- the Bus Arbiter and the Module Bus Engine
  | grant => exact ⟨_, rfl, h.grant⟩
  | mbAckRise lines => exact ⟨_, rfl, h.ite_bays rfl (by simp)⟩
  | mbAckFall => exact ⟨_, rfl, h.ite_bays (by simp) rfl⟩
  | mbRevackRise lines => exact ⟨_, rfl, h.ite_bays rfl (by simp)⟩
  | mbRevackFall => exact ⟨_, rfl, h.ite_bays (by simp) rfl⟩
  | byteTimerExpiry => exact ⟨_, rfl, h.ite_bays (by simp) rfl⟩
  | turnaroundTimerExpiry => exact ⟨_, rfl, h.ite_bays (by simp) rfl⟩
  | heldTimerExpiry => exact ⟨_, rfl, h.ite_bays (by simp) rfl⟩
  | abortRequest w => exact ⟨_, rfl, h.of_bays (by simp [State.takeAbort_bays])⟩
  | abandonRequest w => exact ⟨_, rfl, h.of_bays (by simp)⟩
  -- reports
  | releaseReport b =>
    exact ⟨_, rfl, h.takeReport fun x t ht =>
      ht.actBay (Bay.legal_retest _ _ (Bay.legal_readReleased _ x (ht b)))⟩
  | liveCountReport b => exact ⟨_, rfl, h.takeReport fun p t ht => ht.actBay (Bay.legal_takeLive _ _ _ _ (ht b))⟩
  | timeoutAccountingReport b => exact ⟨_, rfl, h.takeReport fun x t ht => (ht.account b x).fillLine⟩
  | busFaultReport b => exact ⟨_, rfl, h.takeReport fun _ t ht => (ht.busFault b).fillLine⟩
  | identityEndingReport b => exact ⟨_, rfl, h.takeReport fun x t ht => (ht.takeReadEnding b x).fillLine⟩
  | jobEndingReport j => exact ⟨_, rfl, h.takeReport fun x t ht => ht.of_bays (by simp)⟩
  | eventRaise n => exact ⟨_, rfl, h.takeReport fun x t ht => ht.of_bays (by simp)⟩
  -- jobs, events, configuration and counters
  | deadlineExpiry j => exact ⟨_, rfl, h.ite_bays (by simp) rfl⟩
  | submit seq p => exact ⟨_, rfl, h.request fun t ht => ht.serveSubmit p⟩
  | cancel seq p => exact ⟨_, rfl, h.request fun t ht => ht.serveCancel p⟩
  | jobStatus seq p => exact ⟨_, rfl, h.request fun t ht => ht.serveJobStatus p⟩
  | clearEvents seq p => exact ⟨_, rfl, h.request fun t ht => ht.serveClearEvents p⟩
  | setBayConfig seq p => exact ⟨_, rfl, h.request fun t ht => ht.serveSetBayConfig p⟩
  | getBayConfig seq p => exact ⟨_, rfl, h.request fun t ht => ht.forBay fun _ => ht⟩
  | setLinkConfig seq p => exact ⟨_, rfl, h.request fun t ht => ht.serveSetLinkConfig p⟩
  | getLinkConfig seq p => exact ⟨_, rfl, h.request fun t ht => ht⟩
  | getCounters seq p => exact ⟨_, rfl, h.request fun t ht => ht.serveGetCounters p⟩
  -- the Carrier Link
  | linkRxByte x => exact ⟨_, rfl, h.of_bays rfl⟩
  | gapExpiry => exact ⟨_, rfl, h.ite_bays rfl rfl⟩
  | openSession seq p => exact ⟨_, rfl, h.of_bays (by simp)⟩
  | closeSession seq p => exact ⟨_, rfl, h.of_bays (by simp)⟩
  | restart seq p => exact ⟨_, rfl, h.of_bays (by simp)⟩
  | ping seq p => exact ⟨_, rfl, h.request fun t ht => ht⟩
  | ack seq p => exact ⟨_, rfl, h.of_bays (by simp)⟩
  | unknownRequest kind seq p => exact ⟨_, rfl, h.of_bays (by simp)⟩
  | frameSent => exact h.frameSent
  | ackTimerExpiry => exact ⟨_, rfl, h.ite_bays (by simp) rfl⟩

/-- Settles O53: what each command and the idle step keep, by the command at the front of the queue. -/
theorem bayRecordsStayLegal : Obligations.BayRecordsStayLegal := by
  intro s t h hstep
  unfold step at hstep
  split at hstep
  · next c rest _ =>
    obtain ⟨u, hu, hlegal⟩ := exec_baysLegal c (s := { s with pending := rest }) (h.of_bays rfl)
    obtain rfl : u = t := Host.Outcome.next.inj (hu.symm.trans hstep)
    exact hlegal
  · obtain rfl : s.idle = t := Host.Outcome.next.inj hstep
    exact h.idle

end Sys2Proof.Machine
end

section
/-! PROOFS. The reset state, a hardware reset, and the events that cannot occur (R1, R2, R75; assumption log 4). -/

namespace Sys2Proof.Machine

open Sys2Proof.Claims

/-! ## The reset state, record by record -/

theorem State.reset_bay (b : BayNo) : State.reset.bay b = Bay.atReset := by
  simp [State.reset, State.bay]

theorem State.reset_slot (j : SlotNo) : State.reset.slot j = Slot.free := by
  simp [State.reset, State.slot]

theorem State.reset_queue (b : BayNo) : State.reset.queue b = [] := by
  simp [State.reset, State.queue]

theorem State.reset_bayConfig (b : BayNo) : State.reset.bayConfig b = BayConfig.atReset := by
  simp [State.reset, State.bayConfig]

theorem State.reset_bayCounters (b : BayNo) : State.reset.bayCounters b = BayCounters.zero := by
  simp [State.reset, State.bayCounters]

theorem State.reset_source (n : SourceNo) :
    State.reset.source n = { SourceRecord.atReset with set := if n = deviceSource then RESTARTED else 0 } := by
  have hd : n = deviceSource ↔ n.val = 8 := Fin.ext_iff
  by_cases hn : n.val = 8
  · simp [State.reset, State.source, hd, hn, RESTARTED]
  · simp [State.reset, State.source, hd, hn, Ne.symm hn, SourceRecord.atReset]

/-- Settles O3: the reset values, read record by record. -/
theorem resetLeavesStartingValues : Obligations.ResetLeavesStartingValues := by
  refine ⟨fun b => ?_, State.reset_slot, State.reset_source, ?_, ?_⟩
  · simp [State.reset_bay, State.reset_queue, State.reset_bayCounters, State.reset_bayConfig, Bay.atReset,
      BayConfig.atReset]
  · simp [State.reset, Engine.atReset]
  · simp [State.reset, LinkConfig.atReset]

/-! ## The invariants at reset -/

theorem Bay.legal_atReset : Bay.atReset.Legal := Bay.legal_hardwareReset Bay.atReset

theorem Engine.legal_atReset : Engine.atReset.Legal := by
  refine ⟨?_, ?_, ?_, ?_, ?_⟩
  all_goals
    simp [Engine.SelectionLegal, Engine.LinesLegal, Engine.HandshakeLegal, Engine.TimersLegal, Engine.CountsLegal,
      Engine.atReset, Engine.forwarding, Engine.closing]

theorem Slot.legal_free : Slot.free.Legal := by simp [Slot.Legal, Slot.free]

theorem State.reset_liveCount (b : BayNo) : State.reset.liveCount b = 0 := by
  simp [State.liveCount, State.reset_slot, Slot.live, Slot.free]

theorem State.reset_jobsLegal : State.reset.JobsLegal := by
  have hp : State.reset.transmitter.pending = [] := rfl
  have hu : State.reset.transmitter.unacked = [] := rfl
  refine ⟨fun j => ?_, fun b => ?_, fun j => ?_, fun _ => ⟨hp, hu⟩, fun _ j => .inl ?_⟩
  · exact State.reset_slot j ▸ Slot.legal_free
  · simp [State.reset_queue, State.reset_slot, Slot.free]
  · simp [hp, hu, State.reset_slot, Slot.free]
  · rw [State.reset_slot]; rfl

theorem State.reset_tableLegal : State.reset.TableLegal := by
  refine ⟨State.reset_jobsLegal, fun i j hi => ?_, fun b => ?_⟩
  · rw [State.reset_slot] at hi; cases hi
  · rw [State.reset_liveCount]; omega

theorem State.reset_eventsLegal : State.reset.EventsLegal := by
  have hp : State.reset.transmitter.pending = [] := rfl
  have hu : State.reset.transmitter.unacked = [] := rfl
  exact ⟨fun n => by simp [hp, hu, State.reset_source, SourceRecord.atReset],
    fun _ n => by simp [State.reset_source, SourceRecord.atReset]⟩

theorem State.reset_linkLegal : State.reset.LinkLegal := by
  simp [State.LinkLegal, Handler.Legal, State.DeliveryLegal, Transmitter.WindowLegal, numbersBefore, State.reset]

theorem State.reset_settingsLegal : State.reset.SettingsLegal := by
  refine ⟨fun b => ?_, ?_, ?_⟩
  · rw [State.reset_bayConfig]
    simp only [bayConfigInRange, BayConfig.atReset]
    decide
  · simp only [linkConfigInRange, State.reset, LinkConfig.atReset]
    decide
  · simp [State.reset]

/-- Settles O60: each invariant at reset, from the reset value of the records it speaks of. -/
theorem invariantsHoldAtReset : Obligations.InvariantsHoldAtReset := by
  refine ⟨fun b => State.reset_bay b ▸ Bay.legal_atReset, Engine.legal_atReset, State.reset_pool_wf, ⟨fun j => ?_, ?_⟩,
    fun i j hi => ?_, State.reset_tableLegal, State.reset_eventsLegal, State.reset_linkLegal,
    State.reset_settingsLegal, ?_, rfl⟩
  · simp [State.reset_slot, Slot.free]
  · simp [State.reset_slot, Slot.free]
  · rw [State.reset_slot] at hi; cases hi
  · simp [State.PoolBounded, State.reset]

/-! ## A hardware reset -/

theorem Bay.hardwareReset_eq (r : Bay) :
    r.hardwareReset =
      { Bay.atReset with
        presenceLine := r.presenceLine, latchLine := r.latchLine, attnLine := r.attnLine, pgood := r.pgood,
        pfault := r.pfault, latchClosed := r.latchLine, pressed := r.attnLine, service := r.service,
        presenceCount := if r.presenceLine then some (ms 16) else none } := by
  cases h : r.presenceLine <;> simp [Bay.hardwareReset, debounce, debounceTime, h]

/-- Both module lines low: the engine is IDLE (R60). -/
theorem Engine.hardwareReset_low (e : Engine) (ha : e.ack = false) (hr : e.revack = false) :
    e.hardwareReset = ({ Engine.atReset with modByte := e.modByte }, []) := by
  simp [Engine.hardwareReset, Engine.watch, Engine.atReset, ha, hr]

/-- A module line high: the engine is HELD, and BUS-HELD is raised (R75). -/
theorem Engine.hardwareReset_high (e : Engine) (h : e.ack = true ∨ e.revack = true) :
    e.hardwareReset =
      ({ Engine.atReset with
          ack := e.ack, revack := e.revack, modByte := e.modByte, state := .held, heldTimer := some (ms 10) },
        [.raise deviceSource BUS_HELD]) := by
  have hb : (e.ack || e.revack) = true := by simpa using h
  simp [Engine.hardwareReset, Engine.watch, hb, heldTime]

/-- Settles O4: the record of each bay, and the engine by the module lines. -/
theorem hardwareResetStartsAgain : Obligations.HardwareResetStartsAgain := by
  intro s cause straps
  refine ⟨_, rfl, rfl, fun b => ?_, fun ha hr => ?_, fun h => ?_⟩
  · rw [State.hardwareReset_bay, Bay.hardwareReset_eq]
  · have e := s.engine.hardwareReset_low ha hr
    exact ⟨congrArg Prod.fst e, congrArg Prod.snd e⟩
  · have e := s.engine.hardwareReset_high h
    exact ⟨congrArg Prod.fst e, congrArg Prod.snd e⟩

/-! ## Events that cannot occur -/

/-- A grant with the engine not IDLE is no grant (R116). -/
theorem State.grant_busy (s : State) (h : s.engine.state ≠ .idle) : s.grant = s := by
  simp [State.grant, State.busFree, h]

/-- With nothing on its way, nothing is taken. -/
theorem State.takeReport_empty {α : Type} (s : State) (sel : Report → Option α) (act : α → State → State)
    (h : s.handed = []) : s.takeReport sel act = s :=
  s.takeReport_none sel act (by simp [h])

/-- Settles O52: in each command the guard fails, and the state stays. -/
theorem eventsThatCannotOccurChangeNothing : Obligations.EventsThatCannotOccurChangeNothing := by
  intro s b lines same
  have fails {p : Prop} [Decidable p] {t : State} (h : ¬p) : Host.Outcome.next (if p then t else s) =
      (Host.Outcome.next s : Host.Outcome State Fault Refusal) := by rw [if_neg h]
  have holds {p : Prop} [Decidable p] {t : State} (h : p) : Host.Outcome.next (if p then s else t) =
      (Host.Outcome.next s : Host.Outcome State Fault Refusal) := by rw [if_pos h]
  have hold_off_stopped (h : (s.bay b).holdOff = none) : same (.holdOffExpiry b) := by
    simp only [same, exec, execHoldOffExpiry, h]
  have nothing_on_its_way (h : s.handed = []) {α : Type} (sel : Report → Option α) (act : α → State → State) :
      Host.Outcome.next (s.takeReport sel act) = (Host.Outcome.next s : Host.Outcome State Fault Refusal) :=
    congrArg _ (s.takeReport_empty sel act h)
  refine ⟨fun h => ⟨fails ?_, fails ?_⟩, fun h => fails ?_, fun h => ⟨fails ?_, fails ?_⟩, fun h => holds h,
    fun h => fails ?_, fun h => holds h, fun h => fails ?_, fun h => ⟨fails ?_, fails ?_⟩, fun h => fails ?_,
    fun h => fails ?_, hold_off_stopped, fun h => holds h, fun h => fails ?_, fun h => holds h, fun h => fails ?_,
    fun h => fails ?_, fun h => fails ?_, fun h => fails ?_, fun h => congrArg _ (s.grant_busy h),
    fun h => fails ?_, fun h => fails ?_, fun j h => fails ?_,
    fun h => ⟨nothing_on_its_way h _ _, nothing_on_its_way h _ _, nothing_on_its_way h _ _, nothing_on_its_way h _ _,
      nothing_on_its_way h _ _, fun j => nothing_on_its_way h _ _, fun n => nothing_on_its_way h _ _⟩⟩
  all_goals simp [Bay.presenceDue, Bay.latchDue, Bay.pressDue, h]

end Sys2Proof.Machine
end

section
/-! PROOFS. The sideband inputs and the power timers of a bay (R2 to R7, R12 to R16, R22 to R27, R41, R47). -/

namespace Sys2Proof.Machine

open Sys2Proof.Claims

/-! ## What a transition of one bay record leaves -/

/-- A record set changes the bays, and of them this one. -/
theorem State.setBay_eq (s : State) (b : BayNo) (r : Bay) : s.setBay b r = { s with bays := (s.setBay b r).bays } := rfl

theorem State.setBay_otherBaysKept (s : State) (b : BayNo) (r : Bay) : OtherBaysKept b s (s.setBay b r) :=
  fun c hc => by simp [hc]

theorem State.actBay_otherBaysKept (s : State) (b : BayNo) (f : Bay → Bay × Byte) :
    OtherBaysKept b s (s.actBay b f) := fun c hc => by simp [hc]

theorem State.takeWork_actBay_otherBaysKept (s : State) (b : BayNo) (i : BayInstruction) (f : Bay → Bay × Byte) :
    OtherBaysKept b s ((s.takeWork b i).actBay b f) := fun c hc => by simp [hc]

/-- A transition of a bay record changes the bays and makes one raise of its bits (R135). -/
theorem State.actBay_eq (s : State) (b : BayNo) (f : Bay → Bay × Byte) :
    s.actBay b f =
      { s with
        bays := (s.actBay b f).bays, handed := raised s.handed (baySource b) (f (s.bay b)).2 } := by
  rw [raised_append]
  ext1 <;> simp

theorem raised_of_ne_zero (l : List Report) (n : SourceNo) {bits : Byte} (h : bits ≠ 0) :
    raised l n bits = l ++ [.raise n bits] := by
  unfold raised
  rw [if_neg h]

/-- A transition whose bits are known to be some, in the words of a raise that is made. -/
theorem State.actBay_eq_of_bits (s : State) (b : BayNo) (f : Bay → Bay × Byte) {bits : Byte}
    (hf : (f (s.bay b)).2 = bits) (h : bits ≠ 0) :
    s.actBay b f =
      { s with bays := (s.actBay b f).bays, handed := s.handed ++ [.raise (baySource b) bits] } := by
  rw [← raised_of_ne_zero _ _ h, ← hf]
  exact s.actBay_eq b f

theorem State.actBay_liveCount (s : State) (b c : BayNo) (f : Bay → Bay × Byte) :
    (s.actBay b f).liveCount c = s.liveCount c := by simp

/-! ## Raw edges and the service line -/

/-- Settles O5, line by line and level by level. -/
theorem lineEdgeStartsOrCancelsCount : Obligations.LineEdgeStartsOrCancelsCount := by
  intro s b line level
  refine ⟨_, rfl, rfl, s.setBay_otherBaysKept b _, ?_⟩
  cases line <;> rw [State.setBay_bay_self] <;> exact ⟨fun h => if_pos h, fun h => if_neg h⟩

/-- SERVICE is raised exactly on an assertion in ACTIVE (R7). -/
theorem raised_service (l : List Report) (n : SourceNo) (level service : Bool) (x : BayState) :
    raised l n (bitsIf (level && !service && decide (x = .active)) SERVICE) =
      if level = true ∧ service = false ∧ x = .active then l ++ [.raise n SERVICE] else l := by
  by_cases hx : x = .active <;> cases level <;> cases service <;> simp [raised, bitsIf, SERVICE, hx]

/-- Settles O10. -/
theorem serviceLevelIsRecorded : Obligations.ServiceLevelIsRecorded := by
  intro s b level
  refine ⟨_, rfl, s.actBay_otherBaysKept b _, s.actBay_bay_self b _, ?_⟩
  rw [← raised_service]
  exact s.actBay_eq b _

/-! ## Presence -/

/-- Settles the first part of O6: the guard of the command holds, and PRESENCE is raised. -/
theorem presenceAssertSeatsModule : Claims.PresenceAssertSeatsModule := by
  intro s b hs hp hl hc
  have hdue : (s.bay b).presenceDue true ∧ (s.bay b).state = .empty := ⟨by simp [Bay.presenceDue, hp, hl, hc], hs⟩
  refine ⟨_, congrArg Host.Outcome.next (if_pos hdue), s.actBay_eq_of_bits b _ rfl (by decide),
    s.actBay_otherBaysKept b _, ?_⟩
  rw [State.actBay_bay_self]
  exact ⟨rfl, rfl, rfl, rfl, rfl⟩

/-- The bits of an entry to EMPTY are some. -/
theorem removeBits_ne_zero (x y : Bool) : bitsIf x COMMAND ||| PRESENCE ||| bitsIf y SURPRISE ≠ 0 := by
  cases x <;> cases y <;> decide

/-- The record of a removed module, from the record whose work is gone (R27). -/
theorem Bay.remove_workTaken (r : Bay) (n : Nat) :
    SameButLeds ((r.workTaken n .abandon).remove).1
      { entered r .empty with
        presence := false, presenceCount := none, pen := false, mrst := true, identity := none, pending := none,
        lastResult := resultAfter r .failed, read := .noRead, liveJobs := n } := by
  have hread : r.read.after .abandon = .noRead := r.workTaken_abandon_read n
  simp only [Bay.remove, Bay.endCommand_eq, resultAfter_eq, Bay.workTaken, hread]
  exact ⟨rfl, rfl, rfl, rfl, rfl⟩

/-- Settles the second part of O6. -/
theorem presenceLossEmptiesBay : Claims.PresenceLossEmptiesBay := by
  intro s b hs hp hl hc
  have hdue : (s.bay b).presenceDue false ∧ (s.bay b).state ≠ .empty := ⟨by simp [Bay.presenceDue, hp, hl, hc], hs⟩
  have hbits : (((s.takeWork b .bayGone).bay b).remove).2 =
      commandBit (s.bay b) ||| PRESENCE ||| if (s.bay b).pen then SURPRISE else 0 := by
    rw [Bay.remove_bits, State.takeWork_bay_workTaken]
    rfl
  refine ⟨_, congrArg Host.Outcome.next (if_pos hdue), ?_, s.takeWork_actBay_otherBaysKept b _ _, ?_⟩
  · exact State.actBay_eq_of_bits _ b _ hbits (removeBits_ne_zero _ _)
  · rw [State.actBay_bay_self, State.takeWork_bay_workTaken, State.actBay_liveCount]
    exact Bay.remove_workTaken _ _

/-- Settles O6. -/
theorem presenceChangesAreTaken : Obligations.PresenceChangesAreTaken :=
  ⟨presenceAssertSeatsModule, presenceLossEmptiesBay⟩

/-! ## The latch -/

/-- Settles the first part of O7: no latch action is due, and LATCH is raised. -/
theorem latchChangeIsRecorded : Claims.LatchChangeIsRecorded := by
  intro s b hc hl hs
  have hdue : (s.bay b).latchDue = true := by simp [Bay.latchDue, hc, hl]
  have no_action : ¬((s.bay b).latchLine = false ∧ (s.bay b).state.latchActs) := by
    rintro ⟨hline, hacts⟩
    obtain hs | hs | hs | hs | hs | hs := hs
    · simp [hs] at hline
    all_goals simp [hs, BayState.latchActs] at hacts
  refine ⟨_, congrArg Host.Outcome.next ((if_pos hdue).trans (if_neg no_action)),
    s.actBay_eq_of_bits b _ rfl (by decide), s.actBay_otherBaysKept b _, ?_⟩
  rw [State.actBay_bay_self]
  rfl

/-- The record whose pending command has ended SUPERSEDED. -/
def Bay.superseded (r : Bay) : Bay := { r with pending := none, lastResult := resultAfter r .superseded }

theorem Bay.endCommand_superseded (r : Bay) : r.endCommand .superseded = (r.superseded, commandBit r) := by
  simp only [Bay.endCommand_eq, resultAfter_eq, commandBit_eq, Bay.superseded]

/-- An ORDERLY latch opening ends the pending command and drains the bay (R24). -/
theorem Bay.orderly_eq (r : Bay) (c : BayConfig) :
    r.orderly c = ((r.superseded.drain c).1, commandBit r ||| (r.superseded.drain c).2) := by
  simp only [Bay.orderly, Bay.endCommand_superseded]

/-- An IMMEDIATE latch opening ends the pending command and cuts the power (R25). -/
theorem Bay.immediate_eq (r : Bay) (c : BayConfig) :
    r.immediate c =
      ((r.superseded.powerDown c).1, commandBit r ||| (r.superseded.powerDown c).2 ||| UNSAFE_LATCH) := by
  simp only [Bay.immediate, Bay.endCommand_superseded]

/-- Power off with BAYn_PGOOD high: the discharge is waited for (R21). -/
theorem Bay.powerDown_high (r : Bay) (c : BayConfig) (hp : r.pgood = true) :
    SameButLeds (r.powerDown c).1
        { entered r .poweringDown with pen := false, mrst := true, dischargeTimer := some (dischargeTime c) } ∧
      (r.powerDown c).2 = 0 := by
  have e : r.powerDown c =
      ({ r.enter .poweringDown with
          pen := false, mrst := true, dischargeTimer := some (dischargeTime c) }, 0) := if_pos hp
  rw [e]
  exact ⟨⟨rfl, rfl, rfl, rfl, rfl⟩, rfl⟩

/-- Power off with BAYn_PGOOD low already: the bay passes on to PRESENT (R22). -/
theorem Bay.powerDown_low (r : Bay) (c : BayConfig) (hp : r.pgood = false) :
    SameButLeds (r.powerDown c).1
        { entered r .present with
          pen := false, mrst := true, pending := none, lastResult := resultAfter r .completed } ∧
      (r.powerDown c).2 = commandBit r := by
  have e : r.powerDown c = Bay.discharged { r.enter .poweringDown with pen := false, mrst := true } :=
    if_neg (hp ▸ Bool.false_ne_true)
  rw [e]
  simp only [Bay.discharged, Bay.endCommand_eq, resultAfter_eq]
  exact ⟨⟨rfl, rfl, rfl, rfl, rfl⟩, rfl⟩

/-- No command is left to end as the power goes off, so the bits are those of the opening (R25). -/
theorem Bay.immediate_bits (r : Bay) (c : BayConfig) : (r.immediate c).2 = commandBit r ||| UNSAFE_LATCH := by
  have hbits : (r.superseded.powerDown c).2 = 0 := by
    cases hp : r.superseded.pgood
    · exact (Bay.powerDown_low _ c hp).2
    · exact (Bay.powerDown_high _ c hp).2
  simp [Bay.immediate_eq, hbits]

theorem openingBits_ne_zero (r : Bay) : commandBit r ||| UNSAFE_LATCH ||| LATCH ≠ 0 := by
  unfold commandBit
  split <;> decide

/-- The record of an IMMEDIATE latch opening, from the record whose work is gone, by BAYn_PGOOD (R25). -/
theorem Bay.immediate_workTaken (r : Bay) (n : Nat) (c : BayConfig) (hl : r.latchLine = false) :
    let cut : Bay :=
      { entered r .poweringDown with
        latchClosed := false, latchCount := none, pending := none, lastResult := resultAfter r .superseded,
        pen := false, mrst := true, read := .noRead, liveJobs := n }
    let r' := ((r.workTaken n .abandon).recordLatch.immediate c).1
    (r.pgood = true → SameButLeds r' { cut with dischargeTimer := some (dischargeTime c) }) ∧
      (r.pgood = false → SameButLeds r' { cut with state := .present }) := by
  have hread : r.read.after .abandon = .noRead := r.workTaken_abandon_read n
  obtain ⟨q, hq⟩ : ∃ q : Bay, q =
      { r with
        latchClosed := false, latchCount := none, pending := none, lastResult := resultAfter r .superseded,
        read := .noRead, liveJobs := n } := ⟨_, rfl⟩
  have hcut : (r.workTaken n .abandon).recordLatch.superseded = q := by
    simp only [Bay.superseded, Bay.recordLatch, Bay.workTaken, hl, hread, hq]
    rfl
  have high := Bay.powerDown_high q c
  have low := Bay.powerDown_low q c
  simp only [Bay.immediate_eq, hcut]
  subst hq
  exact ⟨fun hp => (high hp).1, fun hp => (low hp).1⟩

theorem byte_or_right_comm (x y z : Byte) : x ||| y ||| z = x ||| z ||| y := by
  rw [BitVec.or_assoc, BitVec.or_comm y, BitVec.or_assoc]

/-- Settles the second part of O7, by the latch action. -/
theorem latchOpeningTakesBayOut : Claims.LatchOpeningTakesBayOut := by
  intro s b hc hl hcl hs
  have hdue : (s.bay b).latchDue = true := by simp [Bay.latchDue, hc, hl, hcl]
  have hact : (s.bay b).latchLine = false ∧ (s.bay b).state.latchActs = true := by
    refine ⟨hl, ?_⟩
    rcases hs with hs | hs | hs | hs <;> rw [hs] <;> rfl
  refine ⟨_, congrArg Host.Outcome.next ((if_pos hdue).trans (if_pos hact)), fun ha => ?_, fun ha => ?_⟩
  · have e : s.latchOpened b = (s.takeWork b .bayOff).actBay b fun r =>
        ((r.recordLatch.orderly (s.bayConfig b)).1, (r.recordLatch.orderly (s.bayConfig b)).2 ||| LATCH) := by
      simp only [State.latchOpened, ha]
    have hrec : ((s.takeWork b .bayOff).bay b).recordLatch.superseded =
        { (s.takeWork b .bayOff).bay b with
          latchClosed := false, latchCount := none, pending := none,
          lastResult := resultAfter (s.bay b) .superseded } := by
      simp only [Bay.superseded, Bay.recordLatch, State.takeWork_bay_self, hl]
      rfl
    have hbit : commandBit ((s.takeWork b .bayOff).bay b).recordLatch = commandBit (s.bay b) := by
      rw [State.takeWork_bay_self]
      rfl
    rw [e]
    refine State.actBay_goesOut s b _ _ _ ?_
    rw [Bay.orderly_eq, hrec, hbit, byte_or_right_comm]
  · have e : s.latchOpened b = (s.takeWork b .latchOpen).actBay b fun r =>
        ((r.recordLatch.immediate (s.bayConfig b)).1, (r.recordLatch.immediate (s.bayConfig b)).2 ||| LATCH) := by
      simp only [State.latchOpened, ha]
    obtain ⟨high, low⟩ := (s.bay b).immediate_workTaken ((s.takeWork b .latchOpen).liveCount b) (s.bayConfig b) hl
    rw [e]
    refine ⟨State.actBay_eq_of_bits _ b _ ?_ (openingBits_ne_zero _), s.takeWork_actBay_otherBaysKept b _ _,
      fun hp => ?_, fun hp => ?_⟩
    · rw [Bay.immediate_bits, State.takeWork_bay_workTaken]
      rfl
    all_goals rw [State.actBay_bay_self, State.takeWork_bay_workTaken, State.actBay_liveCount]
    · exact high hp
    · exact low hp

/-- Settles O7. -/
theorem latchChangesAreTaken : Obligations.LatchChangesAreTaken :=
  ⟨latchChangeIsRecorded, latchOpeningTakesBayOut⟩

/-! ## The attention button -/

/-- A press offered to the hold-off (R47): the field that it leaves, the record as it was but for it. -/
theorem Bay.offerPress_spec (r : Bay) (c : BayConfig) (hl : r.LedsLegal) :
    SameButLeds (r.offerPress c)
      { r with
        holdOff :=
          if r.holdOff.isSome then none
          else if c.attentionAction = .togglePower ∧ r.state = .active then some ⟨.off, holdOffTime c⟩
          else if c.attentionAction = .togglePower ∧ r.state = .present ∧ r.latchClosed = true then
            some ⟨.on, holdOffTime c⟩
          else none } := by
  unfold Bay.offerPress
  split
  · exact sameButLeds_relit _
  · next hrun =>
    split
    · exact sameButLeds_relit _
    · split
      · exact sameButLeds_relit _
      · have hn : none = r.holdOff := (by simpa using hrun : r.holdOff = none).symm
        rw [hn]
        exact sameButLeds_self r hl

/-- Settles the first part of O8. -/
theorem attentionPressOffersHoldOff : Claims.AttentionPressOffersHoldOff := by
  intro s b hc hl hp hled
  have hdue : (s.bay b).pressDue true = true := by simp [Bay.pressDue, hc, hl, hp]
  refine ⟨_, congrArg Host.Outcome.next (if_pos hdue), ?_, fun c hc => by simp [hc], by simp, fun c hc => ?_, ?_, ?_⟩
  · ext1 <;> simp [Bay.press, ATTENTION]
  · simp [State.setBayCounters_bayCounters, hc]
  · simp [BayCounters.press]
  · rw [State.actBay_bay_self]
    exact Bay.offerPress_spec { s.bay b with pressed := true, attnCount := none } (s.bayConfig b) hled

/-- Settles the second part of O8. -/
theorem attentionReleaseIsRecorded : Claims.AttentionReleaseIsRecorded := by
  intro s b hc hl hp
  have hdue : (s.bay b).pressDue false = true := by simp [Bay.pressDue, hc, hl, hp]
  exact ⟨_, congrArg Host.Outcome.next (if_pos hdue), s.setBay_eq b _, s.setBay_otherBaysKept b _,
    s.setBay_bay_self b _⟩

/-- Settles O8. -/
theorem attentionChangesAreTaken : Obligations.AttentionChangesAreTaken :=
  ⟨attentionPressOffersHoldOff, attentionReleaseIsRecorded⟩

/-! ## The power lines -/

/-- Settles the first part of O9. -/
theorem powerGoodRiseStartsSettle : Claims.PowerGoodRiseStartsSettle := by
  intro s b hg
  have hlow : ¬(s.bay b).pgood = true := by simp [hg]
  refine ⟨_, congrArg Host.Outcome.next (if_neg hlow), s.setBay_eq b _, s.setBay_otherBaysKept b _,
    fun hs hp => ?_, fun hs => ?_⟩ <;> rw [State.setBay_bay_self]
  · rw [if_pos ⟨hs, hp⟩]
    rfl
  · exact if_neg fun h => hs.elim (fun hn => hn h.1) fun hn => hn h.2

/-- The record of a bay discharged (R22). -/
theorem Bay.discharged_spec (r : Bay) :
    SameButLeds r.discharged.1
        { entered r .present with pending := none, lastResult := resultAfter r .completed } ∧
      r.discharged.2 = commandBit r := by
  simp only [Bay.discharged, Bay.endCommand_eq, resultAfter_eq]
  exact ⟨⟨rfl, rfl, rfl, rfl, rfl⟩, rfl⟩

/-- Settles the second part of O9. -/
theorem powerGoodFallEndsDischarge : Claims.PowerGoodFallEndsDischarge := by
  intro s b hg hs
  obtain ⟨hrec, hbits⟩ := Bay.discharged_spec { s.bay b with pgood := false }
  refine ⟨(s.setBay b { s.bay b with pgood := false }).actBay b Bay.discharged, ?_, ?_, fun c hc => by simp [hc], ?_⟩
  · exact congrArg Host.Outcome.next ((if_pos hg).trans (congrArg State.fillLine (if_pos hs)))
  · refine (State.actBay_eq _ b _).trans ?_
    rw [State.setBay_bay_self, hbits]
    rfl
  · rw [State.actBay_bay_self, State.setBay_bay_self]
    exact hrec

/-- A line that has moved without a loss of power leaves the state (R6). -/
theorem State.testPower_good (s : State) (b : BayNo) (r : Bay) (h : r.powerLost = false) :
    (s.setBay b r).testPower b = s.setBay b r := by
  simp [State.testPower, h]

/-- A line that has moved with a loss of power faults the bay (R6, R26). -/
theorem State.testPower_lost (s : State) (b : BayNo) (r : Bay) (h : r.powerLost = true) :
    FaultEntered .power b (s.setBay b r) ((s.setBay b r).testPower b) := by
  have e : (s.setBay b r).testPower b = (s.setBay b r).faultBay b .power :=
    if_pos (by rwa [State.setBay_bay_self])
  rw [e]
  exact State.faultBay_spec _ b .power

/-- BAYn_PFAULT_n asserted is a loss of power in POWERING and the states after it (R6). -/
theorem Bay.powerLost_of_pfault (r : Bay) (hf : r.pfault = true)
    (hs : r.state = .powering ∨ r.state = .identifying ∨ r.state = .active ∨ r.state = .resetting ∨
      r.state = .draining) : r.powerLost = true := by
  rcases hs with hs | hs | hs | hs | hs <;> simp [Bay.powerLost, hs, hf]

/-- BAYn_PGOOD low is a loss of power in POWERING phase SETTLE and the states after it (R6). -/
theorem Bay.powerLost_of_pgood (r : Bay) (hg : r.pgood = false)
    (hs : (r.state = .powering ∧ r.powerPhase = some .settle) ∨ r.state = .identifying ∨ r.state = .active ∨
      r.state = .resetting ∨ r.state = .draining) : r.powerLost = true := by
  rcases hs with ⟨hs, hp⟩ | hs | hs | hs | hs
  · simp [Bay.powerLost, hs, hp, hg]
  all_goals simp [Bay.powerLost, hs, hg]

/-- No loss of power shows in the other states, nor in phase RAMP with BAYn_PFAULT_n deasserted (R6). -/
theorem Bay.powerLost_eq_false (r : Bay)
    (hs : r.state = .empty ∨ r.state = .present ∨ r.state = .poweringDown ∨ r.state = .faulted ∨
      (r.state = .powering ∧ r.powerPhase = some .ramp ∧ r.pfault = false)) : r.powerLost = false := by
  rcases hs with hs | hs | hs | hs | ⟨hs, hp, hf⟩
  case inr.inr.inr.inr => simp [Bay.powerLost, hs, hp, hf]
  all_goals simp [Bay.powerLost, hs]

/-- Settles the third part of O9, by the states in which R6 tests the lines. -/
theorem powerLinesAreTested : Claims.PowerLinesAreTested := by
  intro s b r later
  refine ⟨fun hf => ⟨_, congrArg Host.Outcome.next (if_neg (Bool.eq_false_iff.mp hf)), fun hs => ?_, fun hs => ?_⟩,
    fun hg => ?_, rfl⟩
  · exact State.testPower_lost s b _ (Bay.powerLost_of_pfault _ rfl hs)
  · refine State.testPower_good s b _ (Bay.powerLost_eq_false _ ?_)
    show r.state = _ ∨ r.state = _ ∨ r.state = _ ∨ r.state = _ ∨ _
    cases hr : r.state <;> simp_all [later]
  · by_cases hd : (s.bay b).state = .poweringDown
    · refine ⟨_, congrArg Host.Outcome.next (if_pos hg), fun hs => ?_, fun hs => ?_⟩ <;> exfalso
      · simp [later, r, hd] at hs
      · simp [r, hd] at hs
    · refine ⟨_, congrArg Host.Outcome.next ((if_pos hg).trans (congrArg State.fillLine (if_neg hd))), fun hs => ?_,
        fun hs => ?_⟩
      · exact State.testPower_lost s b _ (Bay.powerLost_of_pgood _ rfl hs)
      · refine State.testPower_good s b _ (Bay.powerLost_eq_false _ ?_)
        exact hs.imp_right fun hs => hs.imp_right fun hs => .inr hs

/-- Settles O9. -/
theorem powerLineChangesAreTaken : Obligations.PowerLineChangesAreTaken :=
  ⟨powerGoodRiseStartsSettle, powerGoodFallEndsDischarge, powerLinesAreTested⟩

/-! ## The bay timers -/

/-- Settles O11: each expiry is an entry to FAULTED. -/
theorem powerTimersFaultBay : Obligations.PowerTimersFaultBay := by
  refine ⟨fun s b hs _ ht => ?_, fun s b hs ht => ?_⟩
  · exact ⟨_, congrArg Host.Outcome.next (if_pos ⟨ht, hs⟩), State.faultBay_spec s b .powerUp⟩
  · exact ⟨_, congrArg Host.Outcome.next (if_pos ⟨ht, hs⟩), State.faultBay_spec s b .discharge⟩

/-- Entry to IDENTIFYING, the record's part (R16, R41, R79). -/
theorem Bay.identify_spec (r : Bay) :
    SameButLeds r.identify { entered r .identifying with pen := true, mrst := false, read := .candidate } :=
  ⟨rfl, rfl, rfl, rfl, rfl⟩

/-- Settles O12. -/
theorem settleExpiryEntersIdentifying : Obligations.SettleExpiryEntersIdentifying := by
  intro s b ht gone
  have hgone : gone (s.setBay b (s.bay b).identify) :=
    ⟨s.setBay_eq b _, s.setBay_otherBaysKept b _, by rw [State.setBay_bay_self]; exact Bay.identify_spec _⟩
  exact ⟨fun hs _ => ⟨_, congrArg Host.Outcome.next (if_pos ⟨ht, hs⟩), hgone⟩,
    fun hs _ => ⟨_, congrArg Host.Outcome.next (if_pos ⟨ht, hs⟩), hgone⟩⟩

end Sys2Proof.Machine
end

section
/-! PROOFS. The long commands where they are accepted (R13, R32 to R36, R38, R39), and the reports that a Bay Controller
takes (R20, R28, R39, R78, R83, R91). -/

namespace Sys2Proof.Machine

open Sys2Proof.Claims

/-! ## Long commands -/

theorem State.forBay_some (s : State) (byte : Byte) (b : BayNo) (serve : BayNo → Served) (h : byte.toNat = b.val) :
    s.forBay byte serve = serve b := by
  simp only [State.forBay, bayOf?_some byte b h]

/-- A bay's request that executes and is ACCEPTED, from the state that its service leaves. -/
theorem executes_accepted (s u : State) (f : Frame) (byte : Byte) (b : BayNo) (serve : State → BayNo → Served)
    (hb : byte.toNat = b.val) (hx : Executes s f) (hs : serve (s.popArrival f) b = (u, .accepted, [])) :
    ∃ t, (Host.Outcome.next (s.request f true fun t => t.forBay byte (serve t)).fillLine :
        Host.Outcome State Fault Refusal) = .next t.fillLine ∧ AnsweredFrom u t f 0x01 [] :=
  executes_answered s u f true _ hx .accepted [] ((State.forBay_some _ byte b _ hb).trans hs) rfl (.inl rfl)

/-- Settles the first part of O20. -/
theorem powerOnEntersPowering : Claims.PowerOnEntersPowering := by
  intro q byte b s hb f hx hs hl
  have hserve : (s.popArrival f).servePowerOn b = ((s.popArrival f).enterPowering b .link, .accepted, []) := by
    simp [State.servePowerOn, hs, hl]
  obtain ⟨t, ht, hans⟩ := executes_accepted s _ f byte b State.servePowerOn hb hx hserve
  exact ⟨t, _, ht, State.enterPowering_spec _ b .link, hans⟩

theorem Bay.supersede_eq (r : Bay) (c : BayConfig) :
    r.supersede c =
      ((Bay.drain { r.superseded with pending := some ⟨.powerOff, .link⟩ } c).1,
        commandBit r ||| (Bay.drain { r.superseded with pending := some ⟨.powerOff, .link⟩ } c).2) := by
  simp only [Bay.supersede, Bay.endCommand_superseded, Bay.accept]

/-- A POWER-OFF in ACTIVE drains the bay (R33). -/
theorem State.powerOff_goesOut (s : State) (b : BayNo) (o : Origin) :
    GoesOut b s (s.powerOff b o) { (s.takeWork b .bayOff).bay b with pending := some ⟨.powerOff, o⟩ } 0 :=
  State.actBay_goesOut s b _ _ 0 (Prod.ext rfl BitVec.zero_or.symm)

/-- A POWER-OFF that supersedes the pending command drains the bay (R34, R35). -/
theorem State.supersede_goesOut (s : State) (b : BayNo) :
    GoesOut b s (s.supersede b)
      { (s.takeWork b .bayOff).bay b with
        pending := some ⟨.powerOff, .link⟩, lastResult := resultAfter (s.bay b) .superseded }
      (commandBit (s.bay b)) := by
  have hrec : ({ ((s.takeWork b .bayOff).bay b).superseded with pending := some ⟨.powerOff, .link⟩ } : Bay) =
      { (s.takeWork b .bayOff).bay b with
        pending := some ⟨.powerOff, .link⟩, lastResult := resultAfter (s.bay b) .superseded } := by
    rw [State.takeWork_bay_self]
    rfl
  have hbit : commandBit ((s.takeWork b .bayOff).bay b) = commandBit (s.bay b) := by
    rw [State.takeWork_bay_self]
    rfl
  refine State.actBay_goesOut s b _ _ _ ?_
  rw [Bay.supersede_eq, hrec, hbit]

/-- Settles the second part of O20, by the bay state. -/
theorem powerOffTakesBayOut : Claims.PowerOffTakesBayOut := by
  intro q byte b s hb f s1 off hx
  have hbay : s1.bay b = s.bay b := by simp [s1]
  refine ⟨fun hs => ?_, fun hs => ?_, fun hs hp => ?_⟩
  · have hserve : s1.servePowerOff b = (s1.powerOff b .link, .accepted, []) := by
      simp only [State.servePowerOff, hbay, hs]
    obtain ⟨t, ht, hans⟩ := executes_accepted s _ f byte b State.servePowerOff hb hx hserve
    exact ⟨t, _, ht, s1.powerOff_goesOut b .link, hans⟩
  · have hserve : s1.servePowerOff b = (s1.supersede b, .accepted, []) := by
      rcases hs with hs | hs | hs <;> simp only [State.servePowerOff, hbay, hs]
    obtain ⟨t, ht, hans⟩ := executes_accepted s _ f byte b State.servePowerOff hb hx hserve
    exact ⟨t, _, ht, hbay ▸ s1.supersede_goesOut b, hans⟩
  · have hadopt : s1.adopt b = (s1.setBay b ((s1.bay b).accept .powerOff .link), .accepted, []) := by
      simp [State.adopt, hbay, hp]
    have hserve : s1.servePowerOff b = (s1.setBay b ((s1.bay b).accept .powerOff .link), .accepted, []) := by
      rcases hs with hs | hs <;> simp only [State.servePowerOff, hbay, hs] <;> exact hbay ▸ hadopt
    obtain ⟨t, ht, hans⟩ := executes_accepted s _ f byte b State.servePowerOff hb hx hserve
    refine ⟨t, _, ht, s1.setBay_eq b _, s1.setBay_otherBaysKept b _, ?_, hans⟩
    rw [State.setBay_bay_self, hbay]
    rfl

theorem Bay.resetModule_spec (w : Bay) : Resets w (Bay.resetModule (w.accept .resetModule .link)) := by
  by_cases h : w.liveJobs = 0
  · exact Bay.resetModule_pulses w h
  · exact Bay.resetModule_waits w h

/-- Settles the third part of O20. -/
theorem resetModuleEntersResetting : Claims.ResetModuleEntersResetting := by
  intro q byte b s hb f w hx hs
  have hserve : (s.popArrival f).serveResetModule b = ((s.popArrival f).resetBay b, .accepted, []) := by
    simp [State.serveResetModule, hs]
  obtain ⟨t, ht, hans⟩ := executes_accepted s _ f byte b State.serveResetModule hb hx hserve
  refine ⟨t, _, ht, w.setBay_eq b _, fun c hc => by simp [w, hc], ?_, hans⟩
  rw [State.setBay_bay_self]
  exact Bay.resetModule_spec _

/-- Settles O20. -/
theorem longCommandsAreAccepted : Obligations.LongCommandsAreAccepted :=
  ⟨powerOnEntersPowering, powerOffTakesBayOut, resetModuleEntersResetting⟩

/-! ## Which reports a receiver passes over -/

theorem Report.releaseOf?_eq_none (b : BayNo) (r : Report) (h : ∀ x, r ≠ .release b x) : r.releaseOf? b = none := by
  cases r with
  | release c x =>
    have hc : c ≠ b := fun hc => h x (hc ▸ rfl)
    simp [Report.releaseOf?, hc]
  | _ => rfl

theorem Report.liveCountOf?_eq_none (b : BayNo) (r : Report) (h : ∀ n x, r ≠ .liveCount b n x) :
    r.liveCountOf? b = none := by
  cases r with
  | liveCount c n x =>
    have hc : c ≠ b := fun hc => h n x (hc ▸ rfl)
    simp [Report.liveCountOf?, hc]
  | _ => rfl

theorem Report.accountingOf?_eq_none (b : BayNo) (r : Report) (h : ∀ x, r ≠ .timeoutAccounting b x) :
    r.accountingOf? b = none := by
  cases r with
  | timeoutAccounting c x =>
    have hc : c ≠ b := fun hc => h x (hc ▸ rfl)
    simp [Report.accountingOf?, hc]
  | _ => rfl

theorem Report.readEndingOf?_eq_none (b : BayNo) (r : Report) (h : ∀ x n l y, r ≠ .identityEnding b x n l y) :
    r.readEndingOf? b = none := by
  cases r with
  | identityEnding c x n l y =>
    have hc : c ≠ b := fun hc => h x n l y (hc ▸ rfl)
    simp [Report.readEndingOf?, hc]
  | _ => rfl

/-! ## The wait for the bus -/

/-- A release report changes the read stage only (R86, R87). -/
theorem Bay.readReleased_eq (r : Bay) (earlier : Bool) :
    r.readReleased earlier =
      { r with read := if r.read = .leaving ∧ earlier = false then .noRead else r.read } := by
  unfold Bay.readReleased
  split <;> rfl

/-- Settles O32: the oldest report is taken, and the wait tested from the record that it leaves. -/
theorem busWaitIsTestedAgain : Obligations.BusWaitIsTestedAgain := by
  intro s b pre post hl
  refine ⟨fun earlier hh hpre => ?_, fun n fell hh hpre => ?_⟩
  · have htake := fun act => s.takeReport_oldest (Report.releaseOf? b) act pre post _ earlier hh
      (by simp [Report.releaseOf?])
      fun x hx => Report.releaseOf?_eq_none b x fun e he => hpre e (he ▸ hx)
    refine ⟨_, congrArg Host.Outcome.next (htake _), ?_⟩
    refine State.actBay_waitTested (s.setHanded (pre ++ post)) b _ _ hl ?_
    exact congrArg (fun r => Bay.retest r _) (Bay.readReleased_eq _ _)
  · have htake := fun act => s.takeReport_oldest (Report.liveCountOf? b) act pre post _ (n, fell) hh
      (by simp [Report.liveCountOf?])
      fun x hx => Report.liveCountOf?_eq_none b x fun m y he => hpre m y (he ▸ hx)
    refine ⟨_, congrArg Host.Outcome.next (htake _), fun hf => ?_, fun hf => ?_⟩ <;> subst hf
    · exact State.actBay_waitTested (s.setHanded (pre ++ post)) b { s.bay b with liveJobs := n } _ hl rfl
    · refine ⟨State.actBay_eq (s.setHanded (pre ++ post)) b _, fun c hc => by simp [hc], ?_⟩
      rw [State.actBay_bay_self]
      rfl

/-! ## Timeouts -/

theorem countAfter_timeout (x : Ending) (n : Nat) (h : x = .byteTimeout ∨ x = .turnTimeout) :
    countAfter x n = min (n + 1) 15 := by
  rcases h with rfl | rfl <;> rfl

theorem countAfter_other (x : Ending) (n : Nat) (h1 : x ≠ .done) (h2 : x ≠ .byteTimeout) (h3 : x ≠ .turnTimeout) :
    countAfter x n = n := by
  cases x <;> simp_all [countAfter]

theorem Ending.timedOut_iff (x : Ending) : x.timedOut = true ↔ x = .byteTimeout ∨ x = .turnTimeout := by
  simp [Ending.timedOut]

/-- An ending that is no timeout stores the count and makes no BUS fault report (R78). -/
theorem State.account_other (s : State) (b : BayNo) (x : Ending) (h : ¬(x = .byteTimeout ∨ x = .turnTimeout)) :
    s.account b x = s.setBay b { s.bay b with timeouts := countAfter x (s.bay b).timeouts } := by
  have ht : x.timedOut = false := Bool.eq_false_iff.mpr fun e => h (x.timedOut_iff.mp e)
  simp [State.account, ht]

/-- A timeout stores the count, and is a BUS fault report where the count reaches the limit (R78). -/
theorem State.account_timeout (s : State) (b : BayNo) (x : Ending) (h : x = .byteTimeout ∨ x = .turnTimeout) :
    s.account b x =
      let u := s.setBay b { s.bay b with timeouts := min ((s.bay b).timeouts + 1) 15 }
      if (s.bayConfig b).faultLimit.toNat ≤ min ((s.bay b).timeouts + 1) 15 then u.busFault b else u := by
  have ht : x.timedOut = true := x.timedOut_iff.mpr h
  simp only [State.account, ht, countAfter_timeout x _ h, Bool.true_and, decide_eq_true_eq]

/-- A BUS fault report in EMPTY and FAULTED changes nothing (R28). -/
theorem State.busFault_spared (s : State) (b : BayNo) (h : (s.bay b).state = .empty ∨ (s.bay b).state = .faulted) :
    s.busFault b = s := if_pos h

/-- A BUS fault report in any other state faults the bay (R28). -/
theorem State.busFault_faults (s : State) (b : BayNo) (h : ¬((s.bay b).state = .empty ∨ (s.bay b).state = .faulted)) :
    FaultEntered .bus b s (s.busFault b) := by
  rw [State.busFault_eq, if_neg h]
  exact State.faultBay_spec s b .bus

/-- Settles O33: the count by the ending, and the BUS fault report by the limit and the state. -/
theorem timeoutsAreCountedAndFaultBay : Obligations.TimeoutsAreCountedAndFaultBay := by
  intro s b pre post spared
  refine ⟨fun x hh hpre => ?_, fun hh hpre => ?_⟩
  · have htake := fun act => s.takeReport_oldest (Report.accountingOf? b) act pre post _ x hh
      (by simp [Report.accountingOf?])
      fun y hy => Report.accountingOf?_eq_none b y fun z hz => hpre z (hz ▸ hy)
    obtain ⟨v, hv⟩ : ∃ v, v = s.setHanded (pre ++ post) := ⟨_, rfl⟩
    obtain ⟨n, hn⟩ : ∃ n, n = countAfter x (s.bay b).timeouts := ⟨_, rfl⟩
    have hbay : v.bay b = s.bay b := by simp [hv]
    refine ⟨v.account b x, v.setBay b { s.bay b with timeouts := n },
      hv ▸ congrArg Host.Outcome.next (htake _), ?_, fun c hc => by simp [hv, hc], fun hx => ?_, fun h1 h2 h3 => ?_,
      fun hx => ?_⟩
    · subst hv; rfl
    · rw [State.setBay_bay_self, v.account_other b x (by simp [hx]), hbay, ← hn]
      subst hx
      exact ⟨by rw [hn]; rfl, rfl⟩
    · rw [State.setBay_bay_self, v.account_other b x (by simp [h2, h3]), hbay, ← hn]
      exact ⟨by rw [hn, countAfter_other x _ h1 h2 h3], rfl⟩
    · have hcfg : v.bayConfig b = s.bayConfig b := by simp [hv]
      rw [countAfter_timeout x _ hx] at hn
      rw [State.setBay_bay_self, v.account_timeout b x hx, hbay, hcfg, ← hn]
      have hstate : spared (v.setBay b { s.bay b with timeouts := n }) ↔ spared s := by simp [spared]
      refine ⟨rfl, fun h => ?_, fun hlim hsp => ?_⟩
      · dsimp only
        split
        · next hlim =>
          refine State.busFault_spared _ b (hstate.mpr (h.resolve_left ?_))
          omega
        · rfl
      · dsimp only
        rw [if_pos hlim]
        exact State.busFault_faults _ b fun h => hsp (hstate.mp h)
  · have htake := fun act => s.takeReport_oldest (Report.busFaultOf? b) act pre post _ () hh
      (by simp [Report.busFaultOf?])
      fun y hy => if_neg fun hz : y = .busFault b => hpre (hz ▸ hy)
    refine ⟨_, congrArg Host.Outcome.next (htake _), fun hsp => ?_, fun hsp => ?_⟩
    · exact State.busFault_spared (s.setHanded (pre ++ post)) b hsp
    · exact State.busFault_faults (s.setHanded (pre ++ post)) b hsp

/-! ## The outcome of an identity read -/

/-- Entry to ACTIVE, the record's part (R7, R10, R17, R85). -/
theorem Bay.activate_spec (r : Bay) (d : Identity) :
    SameButLeds (r.activate d).1
        { entered r .active with
          identity := some d, pending := none, lastResult := resultAfter r .completed } ∧
      (r.activate d).2 = commandBit r ||| if r.service then SERVICE else 0 := by
  simp only [Bay.activate, Bay.endCommand_eq, resultAfter_eq]
  exact ⟨⟨rfl, rfl, rfl, rfl, rfl⟩, rfl⟩

/-- A valid outcome, whole (R7, R17, R85). -/
theorem State.takeOutcome_some (u : State) (b : BayNo) (d : Identity) :
    let t := u.takeOutcome b (some d)
    t = { u with
            bays := t.bays,
            handed := raised u.handed (baySource b)
              (commandBit (u.bay b) ||| if (u.bay b).service then SERVICE else 0) } ∧
      OtherBaysKept b u t ∧
      SameButLeds (t.bay b)
        { entered (u.bay b) .active with
          read := .noRead, identity := some d, pending := none, lastResult := resultAfter (u.bay b) .completed } := by
  obtain ⟨hrec, hbits⟩ := Bay.activate_spec { u.bay b with read := .noRead } d
  refine ⟨?_, fun c hc => by simp [State.takeOutcome, hc], ?_⟩
  · refine (State.actBay_eq (u.setRead b .noRead) b fun r => r.activate d).trans ?_
    rw [State.setRead_bay_self, hbits]
    rfl
  · simp only [State.takeOutcome, State.actBay_bay_self, State.setRead_bay_self]
    exact hrec

theorem ReadEnding.identity?_eq_none (x : ReadEnding) (h : x.ending ≠ .done ∨ identityOf? x.bytesIn x.buffer = none) :
    x.identity? = none := by
  unfold ReadEnding.identity?
  split
  · next hd => exact h.resolve_left fun hn => hn hd
  · rfl

/-- Settles O34: an outcome of the read on the bus, or an ending that reaches no bay record. -/
theorem identityOutcomeIsTaken : Obligations.IdentityOutcomeIsTaken := by
  intro s b pre post x n buffer earlier hh hpre
  have htake := fun act => s.takeReport_oldest (Report.readEndingOf? b) act pre post _ ⟨x, n, buffer, earlier⟩ hh
    (by simp [Report.readEndingOf?])
    fun y hy => Report.readEndingOf?_eq_none b y fun z m l e hz => hpre z m l e (hz ▸ hy)
  refine ⟨_, congrArg Host.Outcome.next (htake _), ?_⟩
  intro u waits
  obtain ⟨v, hv⟩ : ∃ v, v = s.setHanded (pre ++ post) := ⟨_, rfl⟩
  have hu : u = v.countTimeout b x := by rw [State.countTimeout_eq, hv]; rfl
  have hbay : u.bay b = s.bay b := by simp [hu, hv]
  have hkept : ∀ t, OtherBaysKept b u t → OtherBaysKept b s t := fun t ht c hc => by
    rw [ht c hc]
    simp [hu, hv]
  have outcome (hw : waits) : v.takeReadEnding b ⟨x, n, buffer, earlier⟩ =
      u.takeOutcome b (ReadEnding.identity? ⟨x, n, buffer, earlier⟩) := by
    rw [hu]
    exact if_pos (by simpa [hv] using hw)
  have no_outcome (hw : ¬waits) : v.takeReadEnding b ⟨x, n, buffer, earlier⟩ = u := by
    rw [hu]
    exact if_neg fun hc => hw (by simpa [hv] using hc)
  rw [← hv]
  refine ⟨fun d hw hx hd => ?_, fun hw hx => ?_, no_outcome⟩
  · have hid : ReadEnding.identity? ⟨x, n, buffer, earlier⟩ = some d := (if_pos hx).trans hd
    obtain ⟨hstate, hothers, hrec⟩ := u.takeOutcome_some b d
    rw [outcome hw, hid, ← hbay]
    exact ⟨hstate, hkept _ hothers, hrec⟩
  · rw [outcome hw, ReadEnding.identity?_eq_none _ hx, ← hbay]
    exact State.faultBay_spec (u.setRead b .noRead) b .identity

end Sys2Proof.Machine
end

section
/-! PROOFS. What a transition of a bay does to the bay's work: its jobs, the bus and its identity read (R11, R73, R86, R91,
R95, R103). -/

namespace Sys2Proof.Machine

open Sys2Proof.Claims

/-! ## The end of a bay's WAITING jobs -/

theorem BayInstruction.status_ne_done (i : BayInstruction) : i.status ≠ .done := by cases i <;> nofun

/-- The jobs in a bay's queue are its WAITING jobs, each once and no orphan (R90, R102). -/
theorem State.JobsLegal.queue {s : State} (h : s.JobsLegal) (b : BayNo) :
    (s.queue b).Nodup ∧ (∀ j, j ∈ s.queue b ↔ (s.slot j).state = .waiting ∧ (s.slot j).bay = b) ∧
      ∀ j ∈ s.queue b, (s.slot j).bay = b ∧ (s.slot j).orphan = false := by
  obtain ⟨hslots, hqueues, -⟩ := h
  obtain ⟨hnodup, hmem⟩ := hqueues b
  refine ⟨hnodup, hmem, fun j hj => ?_⟩
  obtain ⟨hwait, hbay⟩ := (hmem j).mp hj
  obtain ⟨-, horphan, -⟩ := hslots j
  exact ⟨hbay, Bool.eq_false_iff.mpr fun ho => by simp [horphan ho] at hwait⟩

/-- A WAITING job that receives its final status (R94, R95). -/
theorem Slot.ended_waiting (k : Slot) (st : JobStatus) (h : k.orphan = false) :
    k.ended st 0 0 =
      { k with
        state := .donePending, deadline := none, final := some st, bytesOut := 0, bytesIn := 0,
        blocks := if k.kind = .write then [] else k.blocks } := by
  unfold Slot.ended
  rw [h, if_neg Bool.false_ne_true]
  cases k.kind <;> rfl

/-- The WAITING jobs of a bay ended, in a legal table: slots, queues, notices and the pool (R95, R103). -/
theorem State.endQueue_spec (s : State) (b : BayNo) (st : JobStatus) (h : s.JobsLegal) :
    let t := s.endQueue b st
    (∀ j, (s.slot j).state = .waiting → (s.slot j).bay = b →
      t.slot j =
        { s.slot j with
          state := .donePending, deadline := none, final := some st, bytesOut := 0, bytesIn := 0,
          blocks := if (s.slot j).kind = .write then [] else (s.slot j).blocks }) ∧
      (∀ j, ¬((s.slot j).state = .waiting ∧ (s.slot j).bay = b) → t.slot j = s.slot j) ∧
      t.queue b = [] ∧ (∀ c, c ≠ b → t.queue c = s.queue c) ∧
      t.transmitter = { s.transmitter with pending := s.transmitter.pending ++ (s.queue b).map .jobDone } ∧
      t.jobs.pool = s.jobs.pool := by
  obtain ⟨hnodup, hmem, hown⟩ := h.queue b
  obtain ⟨hslot, hq, hqs, htr, hpool⟩ := endJobs_spec st (s.queue b) s b hnodup hown
  refine ⟨fun j hw hb => ?_, fun j hj => ?_, ?_, hqs, htr, hpool⟩
  · have hin : j ∈ s.queue b := (hmem j).mpr ⟨hw, hb⟩
    exact (hslot j).trans ((if_pos hin).trans (Slot.ended_waiting _ _ (hown j hin).2))
  · exact (hslot j).trans (if_neg fun hin => hj ((hmem j).mp hin))
  · refine hq.trans (List.filter_eq_nil_iff.mpr fun j hj => ?_)
    simpa using hj

/-- The end of the WAITING jobs makes and ends no ACTIVE job. -/
theorem State.endQueue_active (s : State) (b : BayNo) (st : JobStatus) (h : s.JobsLegal) (j : SlotNo) :
    ((s.endQueue b st).slot j).state = .active ↔ (s.slot j).state = .active := by
  obtain ⟨hwaiting, hother, -⟩ := s.endQueue_spec b st h
  by_cases hj : (s.slot j).state = .waiting ∧ (s.slot j).bay = b
  · rw [hwaiting j hj.1 hj.2, hj.1]
    simp
  · rw [hother j hj]

theorem State.endQueue_slot_of_active (s : State) (b : BayNo) (st : JobStatus) (h : s.JobsLegal) {j : SlotNo}
    (hj : (s.slot j).state = .active) : (s.endQueue b st).slot j = s.slot j :=
  (s.endQueue_spec b st h).2.1 j (by simp [hj])

theorem State.syncLive_slot (s : State) (b : BayNo) (j : SlotNo) : (s.syncLive b).slot j = s.slot j := rfl

theorem State.syncLive_engine (s : State) (b : BayNo) : (s.syncLive b).engine = s.engine := rfl

/-- The reports on their way but for the live counts of a bay (assumption log 3). -/
theorem State.syncLive_handed (s : State) (b : BayNo) :
    (s.syncLive b).handed = s.handed.filter fun r => !r.isLiveCountOf b := rfl

/-! ## A bay instruction, by whether the bay has an ACTIVE job -/

/-- With no ACTIVE job of the bay, an instruction ends the WAITING jobs and brings the live count up to date (R103). -/
theorem State.instruct_of_none (s : State) (b : BayNo) (i : BayInstruction) (h : s.JobsLegal)
    (hn : ∀ j, (s.slot j).state = .active → (s.slot j).bay ≠ b) :
    s.instruct b i = (s.endQueue b i.status).syncLive b := by
  have hnone : (s.endQueue b i.status).activeOf? b = none := by
    refine State.activeOf?_none _ b fun j hb ha => ?_
    have hact := (s.endQueue_active b i.status h j).mp ha
    rw [s.endQueue_slot_of_active b i.status h hact] at hb
    exact hn j hact hb
  simp only [State.instruct, hnone]

/-- The bay's ACTIVE job is disposed of once the WAITING jobs have ended (R103). -/
theorem State.instruct_of_active (s : State) (b : BayNo) (i : BayInstruction) (h : s.JobsLegal) (h1 : s.OneActive)
    {j : SlotNo} (ha : (s.slot j).state = .active) (hb : (s.slot j).bay = b) :
    s.instruct b i = ((s.endQueue b i.status).disposeJob j i).syncLive b := by
  have hact := s.endQueue_active b i.status h
  have hsome : (s.endQueue b i.status).activeOf? b = some j :=
    State.activeOf?_some _ b j (fun k l hk hl => h1 k l ((hact k).mp hk) ((hact l).mp hl)) ((hact j).mpr ha)
      (by rw [s.endQueue_slot_of_active b i.status h ha, hb])
  simp only [State.instruct, hsome]

/-- An instruction, as the end of the WAITING jobs followed by the disposal of the ACTIVE job, if there is one. -/
theorem State.instruct_cases (s : State) (b : BayNo) (i : BayInstruction) (h : s.JobsLegal) (h1 : s.OneActive) :
    ((∀ j, (s.slot j).state = .active → (s.slot j).bay ≠ b) ∧
        s.instruct b i = (s.endQueue b i.status).syncLive b) ∨
      ∃ j, (s.slot j).state = .active ∧ (s.slot j).bay = b ∧
        s.instruct b i = ((s.endQueue b i.status).disposeJob j i).syncLive b := by
  by_cases hn : ∀ j, (s.slot j).state = .active → (s.slot j).bay ≠ b
  · exact .inl ⟨hn, s.instruct_of_none b i h hn⟩
  · push Not at hn
    obtain ⟨j, ha, hb⟩ := hn
    exact .inr ⟨j, ha, hb, s.instruct_of_active b i h h1 ha hb⟩

/-- What the disposal of the ACTIVE job leaves of the table: its mark, and every other slot as the end of the WAITING jobs
left it (R103). -/
theorem State.instruct_table (s : State) (b : BayNo) (i : BayInstruction) (h : s.JobsLegal) (h1 : s.OneActive) :
    let u := s.endQueue b i.status
    let t := s.instruct b i
    (∀ j, (s.slot j).state = .active → (s.slot j).bay = b →
      t.slot j = { s.slot j with mark := if (s.slot j).mark.isSome then (s.slot j).mark else i.mark }) ∧
      (∀ j, ¬((s.slot j).state = .active ∧ (s.slot j).bay = b) → t.slot j = u.slot j) ∧
      (∀ c, t.queue c = u.queue c) ∧ t.transmitter = u.transmitter ∧ t.jobs.pool = u.jobs.pool ∧
      t.counters = u.counters := by
  intro u t
  obtain ⟨hn, he⟩ | ⟨k, ha, hb, he⟩ := s.instruct_cases b i h h1
  · have ht : t = u.syncLive b := he
    rw [ht]
    exact ⟨fun j hj hjb => absurd hjb (hn j hj), by simp⟩
  · have ht : t = (u.disposeJob k i).syncLive b := he
    obtain ⟨hslot, hqueue, htr, hpool, -⟩ := u.disposeJob_spec k i
    have hk : u.slot k = s.slot k := s.endQueue_slot_of_active b i.status h ha
    rw [ht]
    refine ⟨fun j hj _ => ?_, fun j hj => ?_, by simp, by simp, by simpa using hpool, by simp⟩
    · obtain rfl : j = k := h1 j k hj ha
      rw [State.syncLive_slot, hslot, if_pos rfl, hk]
    · rw [State.syncLive_slot, hslot, if_neg]
      rintro rfl
      exact hj ⟨ha, hb⟩

/-- Settles the first part of O37: WAITING, ACTIVE and other slots apart. -/
theorem bayInstructionDisposesOfJobs : Claims.BayInstructionDisposesOfJobs := by
  intro s b i h h1 t
  obtain ⟨hwaiting, hother, hq, hqs, htr, hpool⟩ := s.endQueue_spec b i.status h
  obtain ⟨tactive, tother, tqueue, ttr, tpool, -⟩ := s.instruct_table b i h h1
  refine ⟨(tqueue b).trans hq, fun c hc => ⟨(tqueue c).trans (hqs c hc), s.instruct_bay_ne b c i hc⟩,
    s.instruct_bay_self b i, fun j hw hb => ?_, tactive, fun j hj => ?_, ttr.trans htr, tpool.trans hpool⟩
  · exact (tother j (by simp [hw])).trans (hwaiting j hw hb)
  · refine (tother j ?_).trans (hother j ?_)
    · exact fun ha => hj.elim (fun hn => hn ha.2) fun hn => hn.2 ha.1
    · exact fun hw => hj.elim (fun hn => hn hw.2) fun hn => hn.1 hw.1

/-! ## What an instruction hands on and does to the bus -/

theorem endingReports_not_liveCount (e : Engine) (x : Ending) (b : BayNo) :
    (Claims.endingReports e x).filter (fun r => !r.isLiveCountOf b) = Claims.endingReports e x := by
  refine List.filter_eq_self.mpr fun r hr => ?_
  unfold Claims.endingReports at hr
  split at hr <;> simp at hr
  all_goals rcases hr with rfl | rfl <;> rfl

theorem releaseReports_not_liveCount (e : Engine) (c b : BayNo) :
    (Report.release c false :: if lineHigh e then [Report.raise deviceSource BUS_HELD] else []).filter
        (fun r => !r.isLiveCountOf b) =
      Report.release c false :: if lineHigh e then [Report.raise deviceSource BUS_HELD] else [] := by
  cases lineHigh e <;> rfl

/-- The end of the WAITING jobs reaches no engine, and hands on live counts of the bay only. -/
theorem State.endQueue_bus (s : State) (b : BayNo) (i : BayInstruction) (h : s.JobsLegal) :
    (s.endQueue b i.status).engine = s.engine ∧
      ((s.endQueue b i.status).handed.filter fun r => !r.isLiveCountOf b) =
        s.handed.filter fun r => !r.isLiveCountOf b := by
  obtain ⟨hnodup, -, hown⟩ := h.queue b
  exact ⟨by simp, (endJobs_counters i.status i.status_ne_done b (s.queue b) s hnodup hown).1⟩

/-- The counters at a bay instruction: one job ended for each WAITING job (R103, R183). -/
theorem State.instruct_counters (s : State) (b : BayNo) (i : BayInstruction) (h : s.JobsLegal) (h1 : s.OneActive) :
    (s.instruct b i).counters.device = s.counters.device ∧
      (∀ c, c ≠ b → (s.instruct b i).bayCounters c = s.bayCounters c) ∧
      (s.instruct b i).bayCounters b =
        { s.bayCounters b with jobsEnded := (s.queue b).length.repeat advance (s.bayCounters b).jobsEnded } := by
  obtain ⟨hnodup, -, hown⟩ := h.queue b
  obtain ⟨-, hothers, hself⟩ := endJobs_counters i.status i.status_ne_done b (s.queue b) s hnodup hown
  obtain ⟨-, -, -, -, -, hcounters⟩ := s.instruct_table b i h h1
  have hbays (c : BayNo) : (s.instruct b i).bayCounters c = (s.endQueue b i.status).bayCounters c := by
    simp only [State.bayCounters, hcounters]
  refine ⟨?_, fun c hc => (hbays c).trans (hothers c hc), (hbays b).trans hself⟩
  rw [hcounters, State.endQueue_device]

/-- With no ACTIVE job of the bay an instruction reaches no engine (R103). -/
theorem State.instruct_none_bus (s : State) (b : BayNo) (i : BayInstruction) (h : s.JobsLegal)
    (hn : ∀ j, (s.slot j).state = .active → (s.slot j).bay ≠ b) :
    (s.instruct b i).engine = s.engine ∧
      (s.instruct b i).handed = s.handed.filter fun r => !r.isLiveCountOf b := by
  rw [s.instruct_of_none b i h hn, State.syncLive_engine, State.syncLive_handed]
  exact s.endQueue_bus b i h

/-- BAY-OFF reaches no engine: an ACTIVE job runs on (R11). -/
theorem State.instruct_bayOff_bus (s : State) (b : BayNo) (h : s.JobsLegal) (h1 : s.OneActive) :
    (s.instruct b .bayOff).engine = s.engine ∧
      (s.instruct b .bayOff).handed = s.handed.filter fun r => !r.isLiveCountOf b := by
  obtain ⟨hn, -⟩ | ⟨j, -, -, he⟩ := s.instruct_cases b .bayOff h h1
  · exact s.instruct_none_bus b .bayOff h hn
  · rw [he, State.syncLive_engine, State.syncLive_handed]
    exact s.endQueue_bus b .bayOff h

/-- A BAY-RESET hands an abort request for a job that carries no mark (R103). -/
theorem State.disposeJob_bayReset (s : State) (j : SlotNo) :
    (s.disposeJob j .bayReset).engine = s.engine ∧
      (s.disposeJob j .bayReset).handed =
        s.handed ++ if (s.slot j).mark = none then [.abortRequest (.job j)] else [] := by
  cases hm : (s.slot j).mark <;> simp [State.disposeJob, BayInstruction.disposal, hm]

/-- BAY-RESET with an ACTIVE job of the bay: only the abort request joins those on their way (R103). -/
theorem State.instruct_bayReset_bus (s : State) (b : BayNo) (h : s.JobsLegal) (h1 : s.OneActive) {j : SlotNo}
    (ha : (s.slot j).state = .active) (hb : (s.slot j).bay = b) :
    (s.instruct b .bayReset).engine = s.engine ∧
      (s.instruct b .bayReset).handed =
        (s.handed.filter fun r => !r.isLiveCountOf b) ++
          if (s.slot j).mark = none then [.abortRequest (.job j)] else [] := by
  obtain ⟨hengine, hkept⟩ := s.endQueue_bus b .bayReset h
  obtain ⟨dengine, dreports⟩ := (s.endQueue b BayInstruction.bayReset.status).disposeJob_bayReset j
  rw [s.endQueue_slot_of_active b _ h ha] at dreports
  rw [s.instruct_of_active b .bayReset h h1 ha hb, State.syncLive_engine, State.syncLive_handed, dreports,
    List.filter_append, hkept]
  refine ⟨dengine.trans hengine, ?_⟩
  split <;> rfl

/-- The instructions that abandon an ACTIVE job (R11). -/
theorem State.disposeJob_abandons (s : State) (j : SlotNo) (i : BayInstruction)
    (hi : i = .latchOpen ∨ i = .bayFault ∨ i = .bayGone) :
    s.disposeJob j i = (s.setSlot j ((s.slot j).marked i.mark)).abandon (.job j) := by
  rcases hi with rfl | rfl | rfl <;> rfl

/-- The abandon of a piece of work, by whether it is on the bus (R73). -/
theorem State.abandon_cases (s : State) (w : Work) :
    (s.engine.work ≠ some w → s.abandon w = s) ∧
      ∀ c : BayNo, s.engine.work = some w → s.engine.selected = some c →
        MessageEnds (if s.engine.state = .aborting then .aborted else .abandoned) c s (s.abandon w) s.engine := by
  obtain ⟨hoff, hon⟩ := s.abandon_spec w
  refine ⟨hoff, fun c hw hc => ?_⟩
  obtain ⟨haborting, hother⟩ := hon c hw hc
  split
  · next ha => exact haborting ha
  · next ha => exact hother ha

/-- LATCH-OPEN, BAY-FAULT and BAY-GONE with an ACTIVE job of the bay: it is abandoned where it is on the bus (R73, R103). -/
theorem State.instruct_abandon_bus (s : State) (b : BayNo) (i : BayInstruction) (h : s.JobsLegal) (h1 : s.OneActive)
    (hi : i = .latchOpen ∨ i = .bayFault ∨ i = .bayGone) {j : SlotNo} (ha : (s.slot j).state = .active)
    (hb : (s.slot j).bay = b) :
    let e := s.engine
    let t := s.instruct b i
    let kept := s.handed.filter fun r => !r.isLiveCountOf b
    (e.work ≠ some (.job j) → t.engine = e ∧ t.handed = kept) ∧
      ∀ c : BayNo, e.work = some (.job j) → e.selected = some c →
        let x : Ending := if e.state = .aborting then .aborted else .abandoned
        t.engine = { released e with ending := endingAfter e x } ∧
          t.handed = kept ++ Claims.endingReports e x ++ .release c false ::
            if lineHigh e then [.raise deviceSource BUS_HELD] else [] := by
  intro e t kept
  obtain ⟨hengine, hkept⟩ := s.endQueue_bus b i h
  obtain ⟨v, hv⟩ : ∃ v, v = (s.endQueue b i.status).setSlot j (((s.endQueue b i.status).slot j).marked i.mark) :=
    ⟨_, rfl⟩
  have ht : t = (v.abandon (.job j)).syncLive b := by
    rw [hv, ← State.disposeJob_abandons _ j i hi]
    exact s.instruct_of_active b i h h1 ha hb
  have ve : v.engine = e := by rw [hv]; exact hengine
  have vkept : (v.handed.filter fun r => !r.isLiveCountOf b) = kept := by rw [hv]; exact hkept
  obtain ⟨off_bus, on_bus⟩ := v.abandon_cases (.job j)
  rw [ve] at off_bus on_bus
  rw [ht, State.syncLive_engine, State.syncLive_handed]
  refine ⟨fun hw => ?_, fun c hw hc => ?_⟩
  · rw [off_bus hw]
    exact ⟨ve, vkept⟩
  · have hends := on_bus c hw hc
    unfold MessageEnds at hends
    rw [hends]
    refine ⟨rfl, ?_⟩
    simp only [List.filter_append, vkept, endingReports_not_liveCount, releaseReports_not_liveCount]

/-- Settles the second part of O37, by the instruction. -/
theorem bayInstructionReachesBus : Claims.BayInstructionReachesBus := by
  intro s b i h h1 t e kept
  obtain ⟨hdevice, hothers, hself⟩ := s.instruct_counters b i h h1
  refine ⟨by ext1 <;> simp [t], hdevice, hothers, hself, fun hi => ?_, fun j ha hb => ⟨fun hi => ?_, fun hi => ?_⟩⟩
  · rcases hi with rfl | hn
    · exact s.instruct_bayOff_bus b h h1
    · exact s.instruct_none_bus b i h hn
  · subst hi
    exact s.instruct_bayReset_bus b h h1 ha hb
  · exact s.instruct_abandon_bus b i h h1 hi ha hb

/-! ## The identity read -/

/-- Settles the third part of O37, by the stage of the read and the instruction. -/
theorem identityReadLeavesWithBay : Claims.IdentityReadLeavesWithBay := by
  intro s b i u t gentle withRead
  have hread : (u.bay b).read = (s.bay b).read := by rw [s.instruct_bay_self b i]
  have ht : t = u.leaveRead b i.readDisposal := rfl
  have gentle_aborts (hi : gentle) : i.readDisposal = .abort := by rcases hi with rfl | rfl <;> rfl
  have others_abandon (hi : ¬gentle) : i.readDisposal = .abandon := by
    cases i with
    | bayOff => exact absurd (.inl rfl) hi
    | bayReset => exact absurd (.inr rfl) hi
    | latchOpen => rfl
    | bayFault => rfl
    | bayGone => rfl
  refine ⟨fun hr => ?_, fun hr => ?_, fun hr hi => ?_, fun hr hi => ?_, fun hr hi => ?_⟩
  · simp only [ht, State.leaveRead, hread, hr]
  · simp only [ht, State.leaveRead, hread, hr]
    rfl
  · simp only [ht, State.leaveRead, hread, hr, gentle_aborts hi]
    rfl
  · simp only [ht, State.leaveRead, hread, hr, gentle_aborts hi]
  · have hab : t = (withRead .noRead).abandon (.identity b) := by
      rcases hr with hr | hr <;> simp only [ht, State.leaveRead, hread, hr, others_abandon hi] <;> rfl
    rw [hab]
    exact State.abandon_spec _ _

/-- Settles O37. -/
theorem bayWorkIsTakenAway : Obligations.BayWorkIsTakenAway :=
  ⟨bayInstructionDisposesOfJobs, bayInstructionReachesBus, identityReadLeavesWithBay⟩

end Sys2Proof.Machine
end

section
/-! PROOFS. The bay commands where they change nothing and where they are refused, CLEAR-FAULT, INDICATE, the reading requests
(R31, R43 to R46, R51, R89, R155, R162, R190, R191), and the reset pulse, hold-off and blink expiries (R40, R46, R49). -/

namespace Sys2Proof.Machine

open Sys2Proof.Claims

/-! ## A request that executes, by what its service answers -/

/-- A request that its service refuses is answered with the status, and nothing else changes. -/
theorem executes_refused (s : State) (f : Frame) (serve : State → Served) (x : Status) (hx : Executes s f)
    (hs : serve (s.popArrival f) = (s.popArrival f).refused x) :
    ∃ t, (Host.Outcome.next (s.request f true serve).fillLine : Host.Outcome State Fault Refusal) = .next t.fillLine ∧
      AnsweredFrom (s.popArrival f) t f x.code [] :=
  executes_answered s _ f true serve hx x [] hs rfl (.inr rfl)

theorem State.forBay_none (s : State) (byte : Byte) (serve : BayNo → Served) (h : 8 ≤ byte.toNat) :
    s.forBay byte serve = s.refused .badArgument := by
  simp only [State.forBay, bayOf?_none byte h]

/-! ## Requests of a wrong length, bay or kind -/

theorem State.request_badLength (s : State) (f : Frame) (serve : State → Served) (hx : Executes s f) :
    AnsweredFrom (s.popArrival f) (s.request f false serve) f 0x12 [] := by
  obtain ⟨hup, hroom, hnew⟩ := hx
  rw [State.request_executed s f false serve hup hroom hnew]
  exact State.answer_spec _ f .badLength [] (.inr rfl)

theorem State.requestEnd_badLength (s : State) (f : Frame) (restart : Bool) (hx : Executes s f)
    (hp : f.payload.isEmpty = false) : AnsweredFrom (s.popArrival f) (s.requestEnd f restart) f 0x12 [] := by
  have e : s.requestEnd f restart = (s.popArrival f).answer f (f.reply .badLength []) := by
    simp [State.requestEnd, executes_takeFrame s f hx, executes_unsettled s f hx, hp]
  rw [e]
  exact State.answer_spec _ f .badLength [] (.inr rfl)

/-- A kind that names no request (R155). -/
theorem State.requestUnknown_kind (s : State) (f : Frame) (hx : Executes s f) (hk : f.kind ≠ 0x10) :
    s.requestUnknown f = (s.popArrival f).answer f f.unknown := by
  simp only [State.requestUnknown, executes_takeFrame s f hx, executes_unsettled s f hx, if_neg hk]

/-- A BAY-COMMAND of none of the four commands (R31, R190). -/
theorem State.requestUnknown_bayCommand (s : State) (f : Frame) (hx : Executes s f) (hk : f.kind = 0x10) :
    s.requestUnknown f =
      (s.popArrival f).answer f (f.reply (if lengthIs 2 f.payload then .badArgument else .badLength) []) := by
  simp only [State.requestUnknown, executes_takeFrame s f hx, executes_unsettled s f hx, if_pos hk]

theorem State.requestUnknown_badLength (s : State) (f : Frame) (hx : Executes s f) (hk : f.kind = 0x10)
    (hp : f.payload.length ≠ 2) : AnsweredFrom (s.popArrival f) (s.requestUnknown f) f 0x12 [] := by
  rw [State.requestUnknown_bayCommand s f hx hk, if_neg (by simpa [lengthIs] using hp)]
  exact State.answer_spec _ f .badLength [] (.inr rfl)

theorem State.requestUnknown_badCommand (s : State) (f : Frame) (hx : Executes s f) (hk : f.kind = 0x10)
    (hp : f.payload.length = 2) : AnsweredFrom (s.popArrival f) (s.requestUnknown f) f 0x13 [] := by
  rw [State.requestUnknown_bayCommand s f hx hk, if_pos (by simpa [lengthIs] using hp)]
  exact State.answer_spec _ f .badArgument [] (.inr rfl)

/-- Of the frames that name no request, R190 bounds the length of a BAY-COMMAND only. -/
theorem bayCommand_of_namesNoRequest (k : Byte) (p : List Byte) (h : namesNoRequest k p = true)
    (hl : lengthAllowed k p.length = false) : k = 0x10 ∧ p.length ≠ 2 := by
  have hk : k ∉ requestKinds := by
    intro hm
    simp [namesNoRequest, hm] at h
  have number (n : Nat) (hv : k.toNat = n) : k = BitVec.ofNat 8 n := by simp [← hv]
  unfold lengthAllowed at hl
  split at hl
  case h_7 hv => exact ⟨number _ hv, by simpa using hl⟩
  case h_17 => cases hl
  all_goals
    next hv =>
      refine absurd ?_ hk
      rw [number _ hv]
      decide

/-- Settles the first part of O18, by the form of the request. -/
theorem badLengthChangesNothing : Claims.BadLengthChangesNothing := by
  intro c f s hwf hc hl hx
  rcases exec_of_requestFrame c f hc with ⟨good, serve, h⟩ | ⟨restart, h⟩ | ⟨rfl, h⟩
  · obtain ⟨he, hgood⟩ := h s
    rw [hgood hl] at he
    exact ⟨_, he, s.request_badLength f serve hx⟩
  · obtain ⟨he, hempty⟩ := h s
    exact ⟨_, he, s.requestEnd_badLength f restart hx (hempty hl)⟩
  · have hno : namesNoRequest f.kind f.payload = true := by
      simp only [Instr.wellFormed, Bool.and_eq_true] at hwf
      exact hwf.2
    obtain ⟨hk, hp⟩ := bayCommand_of_namesNoRequest _ _ hno hl
    exact ⟨_, h s, s.requestUnknown_badLength f hx hk hp⟩

/-- A bay's request whose bay field is above 7 (R191). -/
theorem executes_noSuchBay (s : State) (f : Frame) (byte : Byte) (serve : State → BayNo → Served)
    (hb : 8 ≤ byte.toNat) (hx : Executes s f) :
    ∃ t, (Host.Outcome.next (s.request f true fun t => t.forBay byte (serve t)).fillLine :
        Host.Outcome State Fault Refusal) = .next t.fillLine ∧ AnsweredFrom (s.popArrival f) t f 0x13 [] :=
  executes_refused s f _ .badArgument hx (State.forBay_none _ byte _ hb)

/-- Settles the second part of O18, by the command. -/
theorem bayOutOfRangeChangesNothing : Claims.BayOutOfRangeChangesNothing := by
  rintro c ⟨k, q, p⟩ s byte hb hc hf hx
  have refused := fun serve => executes_noSuchBay s ⟨k, q, p⟩ byte serve hb hx
  simp only [List.mem_cons, List.not_mem_nil, or_false] at hc
  rcases hc with (rfl | rfl | rfl | rfl | rfl) | ⟨which, value, rfl⟩ <;> cases hf <;> exact refused _

/-- Settles the third part of O18. -/
theorem unknownRequestChangesNothing : Claims.UnknownRequestChangesNothing := by
  intro k q p s hx
  refine ⟨_, rfl, fun hk => ?_, fun hk hp => ?_, fun hk hp => ?_⟩
  · rw [State.requestUnknown_kind s _ hx hk, State.answer_eq]
    rfl
  · exact State.requestUnknown_badCommand s _ hx hk hp
  · exact State.requestUnknown_badLength s _ hx hk hp

/-- Settles O18. -/
theorem malformedRequestsChangeNothing : Obligations.MalformedRequestsChangeNothing :=
  ⟨badLengthChangesNothing, bayOutOfRangeChangesNothing, unknownRequestChangesNothing⟩

/-! ## The table of bay commands -/

/-- POWER-ON where the table of R31 does not accept it, by the bay state. -/
theorem State.servePowerOn_unchanged (s : State) (b : BayNo) (st : Byte)
    (h : unchangedStatus? .powerOn (s.bay b) = some st) : ∃ x, s.servePowerOn b = s.refused x ∧ x.code = st := by
  cases hs : (s.bay b).state <;> simp only [unchangedStatus?, hs, Option.some.injEq] at h
  case present =>
    cases hl : (s.bay b).latchClosed <;> simp [hl] at h
    exact ⟨.latchOpen, by simp [State.servePowerOn, hs, hl], h⟩
  all_goals
    simp only [State.servePowerOn, hs]
    exact ⟨_, rfl, h⟩

/-- POWER-OFF on the way out with a command in the slot (R31). -/
theorem State.adopt_busy (s : State) (b : BayNo) (h : (s.bay b).pending.isSome = true) :
    s.adopt b = s.refused .bayBusy := if_pos h

/-- POWER-OFF where the table of R31 does not accept it, by the bay state. -/
theorem State.servePowerOff_unchanged (s : State) (b : BayNo) (st : Byte)
    (h : unchangedStatus? .powerOff (s.bay b) = some st) : ∃ x, s.servePowerOff b = s.refused x ∧ x.code = st := by
  have busy (h : (if (s.bay b).pending.isSome then some (0x21 : Byte) else none) = some st) :
      s.adopt b = s.refused .bayBusy ∧ Status.bayBusy.code = st := by
    obtain ⟨hp, hst⟩ := Option.ite_none_right_eq_some.mp h
    exact ⟨s.adopt_busy b hp, Option.some.inj hst⟩
  cases hs : (s.bay b).state <;> simp only [unchangedStatus?, hs, Option.some.injEq, reduceCtorEq] at h
  case draining => exact ⟨_, by simpa only [State.servePowerOff, hs] using busy h⟩
  case poweringDown => exact ⟨_, by simpa only [State.servePowerOff, hs] using busy h⟩
  all_goals
    simp only [State.servePowerOff, hs]
    exact ⟨_, rfl, h⟩

/-- RESET-MODULE where the table of R31 does not accept it, by the bay state. -/
theorem State.serveResetModule_unchanged (s : State) (b : BayNo) (st : Byte)
    (h : unchangedStatus? .resetModule (s.bay b) = some st) :
    ∃ x, s.serveResetModule b = s.refused x ∧ x.code = st := by
  cases hs : (s.bay b).state <;> simp only [unchangedStatus?, hs, Option.some.injEq, reduceCtorEq] at h
  all_goals
    simp only [State.serveResetModule, hs]
    exact ⟨_, rfl, h⟩

/-- A bay's request that executes and that the bay refuses. -/
theorem executes_bayRefused (s : State) (f : Frame) (byte st : Byte) (b : BayNo) (serve : State → BayNo → Served)
    (hb : byte.toNat = b.val) (hx : Executes s f)
    (hs : ∃ x, serve (s.popArrival f) b = (s.popArrival f).refused x ∧ x.code = st) :
    ∃ t, (Host.Outcome.next (s.request f true fun t => t.forBay byte (serve t)).fillLine :
        Host.Outcome State Fault Refusal) = .next t.fillLine ∧ AnsweredFrom (s.popArrival f) t f st [] := by
  obtain ⟨x, hx', rfl⟩ := hs
  exact executes_refused s f _ x hx ((State.forBay_some _ byte b _ hb).trans hx')

/-- Settles O19, by the command. -/
theorem bayCommandLeavesBayAsItIs : Obligations.BayCommandLeavesBayAsItIs := by
  intro command q byte st b s f hb hf hx hst
  have hbay : (s.popArrival f).bay b = s.bay b := by simp
  rw [← hbay] at hst
  cases command <;> cases hf
  case powerOn => exact executes_bayRefused s _ byte st b _ hb hx (State.servePowerOn_unchanged _ b st hst)
  case powerOff => exact executes_bayRefused s _ byte st b _ hb hx (State.servePowerOff_unchanged _ b st hst)
  case resetModule => exact executes_bayRefused s _ byte st b _ hb hx (State.serveResetModule_unchanged _ b st hst)

/-! ## CLEAR-FAULT -/

/-- Taking the frame reaches no bay, so a bay's request is measured against the bays before it. -/
theorem State.popArrival_otherBaysKept (s : State) (f : Frame) (b : BayNo) : OtherBaysKept b s (s.popArrival f) :=
  fun c _ => by simp

theorem State.popArrival_setBay_otherBaysKept (s : State) (f : Frame) (b : BayNo) (r : Bay) :
    OtherBaysKept b s ((s.popArrival f).setBay b r) := fun c hc => by simp [hc]

/-- CLEAR-FAULT in FAULTED with BAYn_PGOOD low (R43). -/
theorem State.serveClearFault_low (s : State) (b : BayNo) (hs : (s.bay b).state = .faulted)
    (hp : (s.bay b).pgood = false) : s.serveClearFault b = (s.setBay b (s.bay b).clearFault, .ok, []) := by
  simp [State.serveClearFault, hs, hp]

/-- The status of a CLEAR-FAULT that changes nothing, by the bay (R31, R43). -/
def Bay.clearFaultRefusal (r : Bay) : Status :=
  if r.state = .faulted then .powerPresent else if r.state = .empty then .noModule else .wrongState

theorem State.serveClearFault_refused (s : State) (b : BayNo)
    (h : ¬((s.bay b).state = .faulted ∧ (s.bay b).pgood = false)) :
    s.serveClearFault b = s.refused (s.bay b).clearFaultRefusal := by
  cases hs : (s.bay b).state
  case faulted =>
    have hp : (s.bay b).pgood = true := by simpa [hs] using h
    simp [State.serveClearFault, Bay.clearFaultRefusal, hs, hp]
  all_goals simp [State.serveClearFault, Bay.clearFaultRefusal, hs]

theorem Bay.clearFault_spec (r : Bay) :
    SameButLeds r.clearFault { entered r .present with pen := false, mrst := true } := ⟨rfl, rfl, rfl, rfl, rfl⟩

/-- Settles O21: the fault is cleared, or the request is refused by the bay state. -/
theorem clearFaultNeedsPowerGone : Obligations.ClearFaultNeedsPowerGone := by
  intro q byte b s hb f s1 hx
  have hbay : s1.bay b = s.bay b := by simp [s1]
  by_cases h : (s.bay b).state = .faulted ∧ (s.bay b).pgood = false
  · obtain ⟨hs, hp⟩ := h
    have hserve : s1.forBay byte s1.serveClearFault = (s1.setBay b (s.bay b).clearFault, .ok, []) := by
      rw [State.forBay_some s1 byte b _ hb, s1.serveClearFault_low b (hbay ▸ hs) (hbay ▸ hp), hbay]
    obtain ⟨t, ht, hans⟩ := executes_answered s _ f true (fun t => t.forBay byte t.serveClearFault) hx .ok [] hserve rfl
      (.inl rfl)
    refine ⟨t, _, ht, s1.setBay_eq b _, s.popArrival_setBay_otherBaysKept f b _, fun _ _ => ⟨?_, hans⟩, ?_, ?_, ?_⟩
    · rw [State.setBay_bay_self]
      exact Bay.clearFault_spec _
    all_goals simp [hs, hp]
  · have hserve : s1.serveClearFault b = s1.refused (s.bay b).clearFaultRefusal :=
      hbay ▸ s1.serveClearFault_refused b (hbay.symm ▸ h)
    obtain ⟨t, ht, hans⟩ := executes_bayRefused s f byte _ b State.serveClearFault hb hx ⟨_, hserve, rfl⟩
    unfold Bay.clearFaultRefusal at hans
    refine ⟨t, s1, ht, rfl, s.popArrival_otherBaysKept f b, fun hs hp => absurd ⟨hs, hp⟩ h, fun hs _ => ⟨hbay, ?_⟩,
      fun hs => ⟨hbay, ?_⟩, fun hf he => ⟨hbay, ?_⟩⟩
    · rw [if_pos hs] at hans
      exact hans
    · rw [if_neg (by simp [hs]), if_pos hs] at hans
      exact hans
    · rw [if_neg hf, if_neg he] at hans
      exact hans

/-! ## INDICATE -/

theorem Setting.ofCode_eq_none_iff (value : Byte) : Setting.ofCode value = none ↔ 4 ≤ value.toNat := by
  unfold Setting.ofCode
  split
  case h_5 h0 h1 h2 h3 =>
    simp only [imp_false] at h0 h1 h2 h3
    simp only [true_iff]
    omega
  all_goals
    simp only [reduceCtorEq, false_iff]
    omega

theorem Setting.lt_of_ofCode {value : Byte} {v : Setting} (h : Setting.ofCode value = some v) : value.toNat < 4 :=
  lt_of_not_ge fun hn => by simp [(Setting.ofCode_eq_none_iff value).mpr hn] at h

/-- The setting codes of R188. -/
theorem Setting.ofCode_of_mem (value : Byte) (v : Setting)
    (h : (value, v) ∈ [(0x00, Setting.off), (0x01, .on), (0x02, .blink), (0x03, .auto)]) :
    Setting.ofCode value = some v := by
  simp only [List.mem_cons, Prod.mk.injEq, List.not_mem_nil, or_false] at h
  rcases h with ⟨rfl, rfl⟩ | ⟨rfl, rfl⟩ | ⟨rfl, rfl⟩ | ⟨rfl, rfl⟩ <;> rfl

/-- INDICATE with its arguments in their sets (R44). -/
theorem State.serveIndicate_stores (s : State) (byte which value : Byte) (b : BayNo) (v : Setting)
    (hb : byte.toNat = b.val) (hw : which.toNat ≤ 1) (hv : Setting.ofCode value = some v) :
    s.serveIndicate [byte, which, value] = (s.setBay b ((s.bay b).setIndicator (which == 0x01) v), .ok, []) := by
  refine (State.forBay_some s byte b _ hb).trans ?_
  simp only [byteAt, List.getD_cons_succ, List.getD_cons_zero, hv]
  exact if_pos hw

/-- INDICATE with a which or a value outside its set (R191). -/
theorem State.serveIndicate_refused (s : State) (byte which value : Byte) (b : BayNo) (hb : byte.toNat = b.val)
    (h : 2 ≤ which.toNat ∨ 4 ≤ value.toNat) :
    s.serveIndicate [byte, which, value] = s.refused .badArgument := by
  refine (State.forBay_some s byte b _ hb).trans ?_
  simp only [byteAt, List.getD_cons_succ, List.getD_cons_zero]
  split
  · next v hv =>
    have hvalue : value.toNat < 4 := Setting.lt_of_ofCode hv
    exact if_neg (by omega)
  · rfl

theorem Bay.setIndicator_power (r : Bay) (v : Setting) :
    SameButLeds (r.setIndicator false v) { r with powerLed := ⟨v, r.powerLed.driven⟩ } := sameButLeds_relit _

theorem Bay.setIndicator_attention (r : Bay) (v : Setting) :
    SameButLeds (r.setIndicator true v) { r with attnLed := ⟨v, r.attnLed.driven⟩ } := sameButLeds_relit _

/-- Settles O22: the arguments are outside their sets, or the setting they name is stored. -/
theorem indicateStoresSetting : Obligations.IndicateStoresSetting := by
  intro q byte which value b s hb f s1 hx
  have hbay : s1.bay b = s.bay b := by simp [s1]
  by_cases h : 2 ≤ which.toNat ∨ 4 ≤ value.toNat
  · obtain ⟨t, ht, hans⟩ := executes_refused s f (fun t => t.serveIndicate f.payload) .badArgument hx
      (s1.serveIndicate_refused byte which value b hb h)
    refine ⟨t, s1, ht, rfl, s.popArrival_otherBaysKept f b, fun v hv => ?_, fun _ => ⟨hbay, hans⟩⟩
    have hvalue : value.toNat < 4 := Setting.lt_of_ofCode (Setting.ofCode_of_mem value v hv)
    have hwhich : 2 ≤ which.toNat := h.resolve_right (by omega)
    exact ⟨fun hw => absurd (hw ▸ hwhich) (by decide), fun hw => absurd (hw ▸ hwhich) (by decide)⟩
  · obtain ⟨hw, hn⟩ := not_or.mp h
    obtain ⟨v, hv⟩ : ∃ v, Setting.ofCode value = some v :=
      Option.ne_none_iff_exists'.mp fun he => hn ((Setting.ofCode_eq_none_iff value).mp he)
    obtain ⟨t, ht, hans⟩ := executes_answered s _ f true (fun t => t.serveIndicate f.payload) hx .ok []
      (s1.serveIndicate_stores byte which value b v hb (by omega) hv) rfl (.inl rfl)
    rw [hbay] at hans
    refine ⟨t, s1.setBay b ((s.bay b).setIndicator (which == 0x01) v), ht, s1.setBay_eq b _,
      s.popArrival_setBay_otherBaysKept f b _, fun v' hv' => ?_, fun hn => absurd hn h⟩
    obtain rfl : v' = v := Option.some.inj ((Setting.ofCode_of_mem value v' hv').symm.trans hv)
    rw [State.setBay_bay_self]
    constructor <;> rintro rfl
    · exact ⟨Bay.setIndicator_power _ v', hans⟩
    · exact ⟨Bay.setIndicator_attention _ v', hans⟩

/-! ## The reading requests -/

/-- Settles the first part of O23: the length of a PING, 0 to 16 bytes (R190), is its only condition. -/
theorem pingReturnsItsBytes : Claims.PingReturnsItsBytes := by
  intro q p s hp hx
  exact executes_answered s _ _ (pingLength p) (fun t => (t, .ok, p)) hx .ok p rfl (by simpa [pingLength] using hp)
    (.inl rfl)

/-- A reading request of one bay byte answers with the fields read from the bay's record. -/
theorem executes_bayRead (s : State) (f : Frame) (byte : Byte) (b : BayNo) (fields : Bay → List Byte)
    (hb : byte.toNat = b.val) (hx : Executes s f) :
    ∃ t, (Host.Outcome.next (s.request f true fun t => t.forBay byte fun c => (t, .ok, fields (t.bay c))).fillLine :
        Host.Outcome State Fault Refusal) = .next t.fillLine ∧
      AnsweredFrom (s.popArrival f) t f 0x00 (fields (s.bay b)) := by
  have hbay : (s.popArrival f).bay b = s.bay b := by simp
  exact executes_answered s _ f true _ hx .ok _ (hbay ▸ State.forBay_some _ byte b _ hb) rfl (.inl rfl)

/-- The fields of BAY-STATUS in the groups of R192: state to pending command, last result, cause, hold-off, the rest. -/
theorem bayStatusFields_groups (r : Bay) :
    bayStatusFields r =
      [r.state.code, phaseCode r, inputsByte r, orAbsent (fun p => p.command.code) r.pending,
        orAbsent (fun p => p.origin.code) r.pending] ++
        lastResultBytes r.lastResult ++ [orAbsent FaultCause.code r.cause] ++
        (orAbsent (fun h => h.target.code) r.holdOff :: timeBytes (r.holdOff.map HoldOff.left)) ++
        [r.powerLed.setting.code, r.powerLed.driven.code, r.attnLed.setting.code, r.attnLed.driven.code,
          byteOf r.timeouts, byteOf r.liveJobs] := by
  simp [bayStatusFields, indicatorBytes]

/-- Settles the second part of O23: the fields are those of the two layouts of R192. -/
theorem bayReportsChangeNothing : Claims.BayReportsChangeNothing := by
  refine ⟨fun q byte s hb => ⟨fun hx => ?_, fun hx => ?_⟩, fun q byte b s hb => ⟨fun hx => ?_, fun hx => ?_⟩⟩
  · exact executes_noSuchBay s _ byte _ hb hx
  · exact executes_noSuchBay s _ byte _ hb hx
  · obtain ⟨t, ht, hans⟩ := executes_bayRead s _ byte b bayStatusFields hb hx
    refine ⟨t, ht, ?_⟩
    convert hans using 1
    rw [bayStatusFields_groups]
    -- group by group, each field by the presence of what it reports
    congr 1; congr 1; congr 1; congr 1
    · unfold phaseCode
      cases (s.bay b).pending <;> cases (s.bay b).powerPhase <;> cases (s.bay b).resetPhase <;> rfl
    · cases (s.bay b).lastResult <;> rfl
    · cases (s.bay b).cause <;> rfl
    · cases (s.bay b).holdOff <;> rfl
  · obtain ⟨t, ht, hans⟩ := executes_bayRead s _ byte b bayIdentityFields hb hx
    refine ⟨t, ht, ?_⟩
    convert hans using 1
    unfold bayIdentityFields
    cases (s.bay b).identity <;> simp [two]

/-- Settles O23. -/
theorem readingRequestsChangeNothing : Obligations.ReadingRequestsChangeNothing :=
  ⟨pingReturnsItsBytes, bayReportsChangeNothing⟩

/-! ## The reset pulse, the hold-off and the blink cycle -/

/-- Settles O13: the expiry is taken, and it writes the pulse's fields of one record. -/
theorem resetPulseExpiryStartsSettle : Obligations.ResetPulseExpiryStartsSettle := by
  intro s b hs _ ht
  exact ⟨_, congrArg Host.Outcome.next (if_pos ⟨ht, hs⟩), s.setBay_eq b _, s.setBay_otherBaysKept b _,
    s.setBay_bay_self b _⟩

/-- The hold-off removed changes nothing else of the record but what the indicators show (R49). -/
theorem Bay.endHoldOff_spec (r : Bay) : SameButLeds r.endHoldOff { r with holdOff := none } := sameButLeds_relit _

/-- Target OFF in ACTIVE: the bay is switched off by the button (R49). -/
theorem State.holdOffExpired_off (s : State) (b : BayNo) (hs : (s.bay b).state = .active) :
    s.holdOffExpired b .off = (s.setBay b (s.bay b).endHoldOff).powerOff b .button := if_pos hs

/-- Target ON in PRESENT, the latch CLOSED: the bay is switched on by the button (R49). -/
theorem State.holdOffExpired_on_closed (s : State) (b : BayNo) (hs : (s.bay b).state = .present)
    (hl : (s.bay b).latchClosed = true) :
    s.holdOffExpired b .on = (s.setBay b (s.bay b).endHoldOff).enterPowering b .button := if_pos ⟨hs, hl⟩

/-- Target ON in PRESENT, the latch OPEN: the hold-off ends and nothing follows (R49). -/
theorem State.holdOffExpired_on_open (s : State) (b : BayNo) (hl : (s.bay b).latchClosed = false) :
    s.holdOffExpired b .on = s.setBay b (s.bay b).endHoldOff := if_neg fun h => by simp [hl] at h

/-- Settles O14: the hold-off ends in `u`, and from `u` the target is acted on. -/
theorem holdOffExpiryActsOnTarget : Obligations.HoldOffExpiryActsOnTarget := by
  intro s b h hh hcase
  have expired : exec (.holdOffExpiry b) s = .next (s.holdOffExpired b h.target).fillLine := by
    simp only [exec, execHoldOffExpiry, hh]
  refine ⟨_, s.setBay b (s.bay b).endHoldOff, expired, s.setBay_eq b _, s.setBay_otherBaysKept b _, ?_, ?_⟩
  · rw [State.setBay_bay_self]
    exact Bay.endHoldOff_spec _
  rcases hcase with ⟨hs, ht⟩ | ⟨hs, ht⟩ <;> rw [ht]
  · rw [s.holdOffExpired_off b hs]
    refine ⟨fun _ => State.powerOff_goesOut _ b .button, fun hn => ?_, fun hn => ?_⟩ <;> simp [hs] at hn
  · refine ⟨fun hn => by simp [hs] at hn, fun _ hl => ?_, fun _ hl => ?_⟩
    · rw [s.holdOffExpired_on_closed b hs hl]
      exact State.enterPowering_spec _ b .button
    · exact s.holdOffExpired_on_open b hl

/-- An indicator line by the indicator's driven value (R46). -/
theorem ledLine_spec (i : Indicator) (k : Blink) :
    (i.driven = .off → ledLine i k = false) ∧ (i.driven = .on → ledLine i k = true) ∧
      (i.driven = .blink → ledLine i k = k.lit) := by
  refine ⟨fun h => ?_, fun h => ?_, fun h => ?_⟩ <;> simp only [ledLine, h]

/-- Settles O15. -/
theorem blinkCycleTurnsOver : Obligations.BlinkCycleTurnsOver := fun s => ⟨rfl, fun i => ledLine_spec i s.blink⟩

end Sys2Proof.Machine
end

section
/-! PROOFS. The Module Bus Engine event by event: what each does by the engine state, and the statements of chapter 3
about bytes, turnaround, timers, line watch, aborts and grants (R53 to R77, R80, R114, R116, R118). -/

namespace Sys2Proof.Machine

open Sys2Proof.Claims

/-! ## The forward coder (R65) -/

/-- After the last byte the coder sends END (R61). -/
theorem Engine.nextPiece_end (e : Engine) (h : e.message.outData.length ≤ e.position) : e.nextPiece = .endMark := by
  simp [Engine.nextPiece, List.drop_eq_nil_of_le h]

/-- The next piece by the run of equal bytes at the coder's position (R65). -/
theorem Engine.nextPiece_run (e : Engine) {n : Nat} {v : Byte} {rest : List Byte} (hn : 0 < n)
    (hd : e.message.outData.drop e.position = List.replicate n v ++ rest) (hr : rest.head? ≠ some v) :
    e.nextPiece =
      if e.message.compress = true ∧ 3 ≤ n then .repeatCount (min n 128) else .data 1 := by
  obtain ⟨k, rfl⟩ := Nat.exists_eq_succ_of_ne_zero hn.ne'
  have hrun := runLength_replicate k v rest hr
  have hne : (List.replicate (k + 1) v ++ rest).isEmpty = false := by simp [List.replicate_succ]
  simp only [Engine.nextPiece, hd, hrun, hne, Bool.and_eq_true, decide_eq_true_eq, Bool.false_eq_true, if_false]

/-- Settles O26: the run at the coder's position decides. -/
theorem forwardCoderCutsRuns : Obligations.ForwardCoderCutsRuns := by
  intro e n v rest
  refine ⟨e.nextPiece_end, fun hd hn hr => ?_⟩
  rw [e.nextPiece_run hn hd hr]
  refine ⟨fun h => if_neg ?_, fun hc h3 => if_pos ⟨hc, h3⟩⟩
  rintro ⟨hc, h3⟩
  rcases h with h | h
  · simp [hc] at h
  · omega

/-- The byte that the next piece puts on the lines, as the statements spell it. -/
theorem Engine.itemByte_nextPiece (e : Engine) : e.itemByte e.nextPiece = pieceByte e := by
  unfold pieceByte
  have hp : e.nextPiece = .endMark ∨ (∃ n, e.nextPiece = .repeatCount n) ∨ e.nextPiece = .data 1 := by
    simp only [Engine.nextPiece]
    split
    · exact .inl rfl
    · split
      · exact .inr (.inl ⟨_, rfl⟩)
      · exact .inr (.inr rfl)
  rcases hp with h | ⟨n, h⟩ | h <;> rw [h] <;> rfl

theorem Engine.startItem_nextPiece (e : Engine) (c : BayConfig) : e.startItem c e.nextPiece = pieceDue c e := by
  rw [Engine.startItem_eq, Engine.itemByte_nextPiece, pieceDue]

/-! ## An event of the engine within the state -/

/-- An engine event without a report changes the engine record only. -/
theorem State.runEngine_silent (s : State) {f : Engine → Engine × List Report} {e : Engine}
    (h : f s.engine = (e, [])) : s.runEngine f = { s with engine := e } := by
  simp [State.runEngine, State.setEngine, State.handAll, h]

theorem State.runEngine_reports (s : State) {f : Engine → Engine × List Report} {e : Engine} {l : List Report}
    (h : f s.engine = (e, l)) : s.runEngine f = { s with engine := e, handed := s.handed ++ l } := by
  simp [State.runEngine, State.setEngine, State.handAll, h]

/-- With no offer before the engine nothing is examined (R56). -/
theorem State.takeOffer_none (s : State) (h : s.engine.offered = false) : s.takeOffer = s := by
  simp [State.takeOffer, h]

theorem Engine.offered_of_state (e : Engine) (h : e.state ≠ .reverse) : e.offered = false := by
  simp [Engine.offered, h]

theorem Engine.offered_of_handshake (e : Engine) (h : e.handshake ≠ .offer) : e.offered = false := by
  simp [Engine.offered, h]

theorem Engine.offered_of_ack (e : Engine) (h : e.ack = false) : e.offered = false := by
  simp [Engine.offered, h]

/-- The engine record once MB_ACK, or MB_REVACK, has risen with these levels on MB_CMD and MB_D. -/
def Engine.ackUp (e : Engine) (lines : BusByte) : Engine := { e with ack := true, modByte := lines }

def Engine.revackUp (e : Engine) (lines : BusByte) : Engine := { e with revack := true, modByte := lines }

def Engine.ackDown (e : Engine) : Engine := { e with ack := false }

def Engine.revackDown (e : Engine) : Engine := { e with revack := false }

theorem exec_mbAckRise (s : State) (lines : BusByte) (h : s.engine.ack = false) :
    exec (.mbAckRise lines) s = .next ((s.setEngine (s.engine.ackUp lines)).runEngine Engine.ackRise).takeOffer :=
  congrArg Host.Outcome.next (if_neg (by simp [h]))

theorem exec_mbRevackRise (s : State) (lines : BusByte) (h : s.engine.revack = false) :
    exec (.mbRevackRise lines) s =
      .next ((s.setEngine (s.engine.revackUp lines)).runEngine fun e => e.revackRise s.busConfig).takeOffer :=
  congrArg Host.Outcome.next (if_neg (by simp [h]))

theorem exec_mbAckFall (s : State) (h : s.engine.ack = true) :
    exec .mbAckFall s = .next ((s.setEngine s.engine.ackDown).runEngine fun e => e.ackFall s.busConfig) :=
  congrArg Host.Outcome.next (if_pos h)

theorem exec_mbRevackFall (s : State) (h : s.engine.revack = true) :
    exec .mbRevackFall s = .next ((s.setEngine s.engine.revackDown).runEngine fun e => e.revackFall s.busConfig) :=
  congrArg Host.Outcome.next (if_pos h)

/-- A rise of MB_ACK that brings no offer, by what the engine makes of it. -/
theorem exec_mbAckRise_silent (s : State) (lines : BusByte) {e : Engine} (ha : s.engine.ack = false)
    (h : (s.engine.ackUp lines).ackRise = (e, [])) (ho : e.offered = false) :
    exec (.mbAckRise lines) s = .next { s with engine := e } := by
  rw [exec_mbAckRise s lines ha, (s.setEngine (s.engine.ackUp lines)).runEngine_silent h, State.takeOffer_none _ ho]
  rfl

theorem exec_mbRevackRise_silent (s : State) (lines : BusByte) {e : Engine} (ha : s.engine.revack = false)
    (h : (s.engine.revackUp lines).revackRise s.busConfig = (e, [])) (ho : e.offered = false) :
    exec (.mbRevackRise lines) s = .next { s with engine := e } := by
  rw [exec_mbRevackRise s lines ha, (s.setEngine _).runEngine_silent h, State.takeOffer_none _ ho]
  rfl

theorem exec_mbAckFall_silent (s : State) {e : Engine} (ha : s.engine.ack = true)
    (h : s.engine.ackDown.ackFall s.busConfig = (e, [])) : exec .mbAckFall s = .next { s with engine := e } := by
  rw [exec_mbAckFall s ha, (s.setEngine _).runEngine_silent h]
  rfl

theorem exec_mbRevackFall_silent (s : State) {e : Engine} (ha : s.engine.revack = true)
    (h : s.engine.revackDown.revackFall s.busConfig = (e, [])) :
    exec .mbRevackFall s = .next { s with engine := e } := by
  rw [exec_mbRevackFall s ha, (s.setEngine _).runEngine_silent h]
  rfl

/-! ## Edges, by the engine state -/

/-- A forward byte is in hand: FORWARD, or ABORTING before WAIT-LINES (R71). -/
def Engine.Sends (e : Engine) : Prop := e.state = .forward ∨ e.state = .aborting ∧ e.abortStep ≠ some .waitLines

/-- The engine waits for both module lines to fall; the ending that the release fixes if there is none (R64, R72). -/
def Engine.Waits (e : Engine) (x : Ending) : Prop :=
  e.state = .turningBack ∧ x = .done ∨ e.state = .aborting ∧ e.abortStep = some .waitLines ∧ x = .aborted

theorem Engine.ackRise_idle (e : Engine) (hs : e.state = .idle) : e.ackRise = e.watch := by
  simp only [Engine.ackRise, hs]

theorem Engine.revackRise_idle (e : Engine) (c : BayConfig) (hs : e.state = .idle) : e.revackRise c = e.watch := by
  simp only [Engine.revackRise, hs]

theorem Engine.ackFall_held (e : Engine) (c : BayConfig) (hs : e.state = .held) : e.ackFall c = e.leaveHeld := by
  simp only [Engine.ackFall, hs]

theorem Engine.revackFall_held (e : Engine) (c : BayConfig) (hs : e.state = .held) :
    e.revackFall c = e.leaveHeld := by
  simp only [Engine.revackFall, hs]

theorem Engine.revackRise_turning (e : Engine) (c : BayConfig) (hs : e.state = .turning) :
    e.revackRise c = (e.enterReverse c, []) := by
  simp only [Engine.revackRise, hs]

theorem Engine.ackFall_turning (e : Engine) (c : BayConfig) (hs : e.state = .turning) : e.ackFall c = (e, []) := by
  simp only [Engine.ackFall, hs]

theorem Engine.ackFall_reverse (e : Engine) (c : BayConfig) (hs : e.state = .reverse) :
    e.ackFall c = e.reverseFall c := by
  simp only [Engine.ackFall, hs]

/-- MB_REVACK has fallen in REVERSE: before the module's END the phase is lost (R59). -/
theorem Engine.revackFall_reverse (e : Engine) (c : BayConfig) (hs : e.state = .reverse) :
    e.revackFall c = if e.handshake = .takenEnd then (e, []) else e.refuse c .protocol := by
  simp only [Engine.revackFall, hs]

/-- MB_ACK has fallen after a byte was taken: the next offer wait (R56, R57). -/
theorem Engine.reverseFall_taken (e : Engine) (c : BayConfig) (hk : e.handshake = .taken) :
    e.reverseFall c = ({ e with stb := false, handshake := .offer, byteTimer := some (byteTime c) }, []) := by
  simp only [Engine.reverseFall, hk]

/-- MB_ACK has fallen after the module's END (R63). -/
theorem Engine.reverseFall_takenEnd (e : Engine) (c : BayConfig) (hk : e.handshake = .takenEnd) :
    e.reverseFall c = e.turnBack c := by
  simp only [Engine.reverseFall, hk]

/-- MB_ACK has risen on a strobed byte (R55). -/
theorem Engine.ackRise_strobed (e : Engine) (hs : e.state = .forward ∨ e.state = .aborting)
    (hk : e.handshake = .strobed) : e.ackRise = ({ e with stb := false, handshake := .acked }, []) := by
  rcases hs with hs | hs <;> simp [Engine.ackRise, hs, hk]

/-- A rise of MB_ACK that finds neither the rest nor a strobed byte moves its line only (R62, R64, R72, R75). -/
theorem Engine.ackRise_moves (e : Engine) (hs : e.state ≠ .idle) (hk : e.handshake ≠ .strobed) :
    e.ackRise = (e, []) := by
  unfold Engine.ackRise
  split
  · next h => exact absurd h hs
  all_goals simp [hk]

theorem Engine.ackRise_elsewhere (e : Engine) (hs : e.state ≠ .idle) (hf : e.state ≠ .forward)
    (ha : e.state ≠ .aborting) : e.ackRise = (e, []) := by
  unfold Engine.ackRise
  split
  · next h => exact absurd h hs
  · next h => exact absurd h hf
  · next h => exact absurd h ha
  all_goals rfl

theorem Engine.revackRise_moves (e : Engine) (c : BayConfig) (hs : e.state ≠ .idle) (ht : e.state ≠ .turning) :
    e.revackRise c = (e, []) := by
  unfold Engine.revackRise
  split
  · next h => exact absurd h hs
  · next h => exact absurd h ht
  all_goals rfl

theorem Engine.ackFall_sends (e : Engine) (c : BayConfig) (h : e.Sends) : e.ackFall c = e.forwardFall c := by
  rcases h with hs | ⟨hs, ha⟩
  · simp [Engine.ackFall, hs]
  · simp [Engine.ackFall, hs, ha]

theorem Engine.ackFall_waits (e : Engine) (c : BayConfig) {x : Ending} (h : e.Waits x) :
    e.ackFall c = e.releaseIfLow x := by
  rcases h with ⟨hs, rfl⟩ | ⟨hs, ha, rfl⟩
  · simp [Engine.ackFall, hs]
  · simp [Engine.ackFall, hs, ha]

theorem Engine.revackFall_waits (e : Engine) (c : BayConfig) {x : Ending} (h : e.Waits x) :
    e.revackFall c = e.releaseIfLow x := by
  rcases h with ⟨hs, rfl⟩ | ⟨hs, ha, rfl⟩
  · simp [Engine.revackFall, hs]
  · simp [Engine.revackFall, hs, ha]

theorem Engine.revackFall_sends (e : Engine) (c : BayConfig) (h : e.Sends) : e.revackFall c = (e, []) := by
  rcases h with hs | ⟨hs, ha⟩
  · simp [Engine.revackFall, hs]
  · simp [Engine.revackFall, hs, ha]

/-- MB_ACK has fallen for a byte that waited for it (R55). -/
theorem Engine.forwardFall_due (e : Engine) (c : BayConfig) (h : e.handshake = .due) :
    e.forwardFall c = (e.strobe, []) := by
  simp [Engine.forwardFall, h]

/-- The last edge of a byte of the message (R61). -/
theorem Engine.forwardFall_acked (e : Engine) (c : BayConfig) (h : e.handshake = .acked)
    (ha : e.abortStep ≠ some .finishByte) : e.forwardFall c = e.itemDone c := by
  simp [Engine.forwardFall, h, ha]

/-- The last edge of the byte in progress when the abort came (R71). -/
theorem Engine.forwardFall_finishByte (e : Engine) (c : BayConfig) (h : e.handshake = .acked)
    (ha : e.abortStep = some .finishByte) : e.forwardFall c = (e.finishByte c, []) := by
  simp [Engine.forwardFall, h, ha]

/-! ## Forward bytes (R55, R61, R62) -/

/-- Settles the first part of O25. -/
theorem forwardByteCrossesInFourEdges : Claims.ForwardByteCrossesInFourEdges := by
  intro s lines hs ha
  refine ⟨fun hack hk => ?_, fun hack hk => ?_⟩
  · exact exec_mbAckRise_silent s lines hack (Engine.ackRise_strobed (s.engine.ackUp lines) hs hk)
      (Engine.offered_of_handshake _ nofun)
  · have hsends : s.engine.ackDown.Sends := hs.imp id fun h => ⟨h, ha⟩
    exact exec_mbAckFall_silent s hack
      ((Engine.ackFall_sends _ _ hsends).trans (Engine.forwardFall_due s.engine.ackDown _ hk))

/-- Settles the second part of O25, by the piece that has crossed. -/
theorem forwardByteCompletes : Claims.ForwardByteCompletes := by
  intro s b hs hb hw hack hk ha
  have hfall : s.engine.ackDown.ackFall s.busConfig = s.engine.ackDown.itemDone (s.bayConfig b) := by
    rw [s.busConfig_selected b hb, s.engine.ackDown.ackFall_sends _ (.inl hs)]
    exact Engine.forwardFall_acked s.engine.ackDown _ hk (by simp [Engine.ackDown, ha])
  refine ⟨_, exec_mbAckFall s hack, ?_⟩
  intro c e
  have silent {e' : Engine} (h : e.itemDone c = (e', [])) :
      ((s.setEngine s.engine.ackDown).runEngine fun e => e.ackFall s.busConfig) = { s with engine := e' } :=
    (s.setEngine _).runEngine_silent (hfall.trans h)
  refine ⟨fun hi => silent ?_, fun n hi => silent ?_, fun n hi => silent ?_, fun hi hx => ?_, fun hi hx => ?_⟩
  · simp only [Engine.itemDone, hi, Engine.startItem_nextPiece]
  · simp only [Engine.itemDone, hi, Engine.startItem_eq]
    rfl
  · simp only [Engine.itemDone, hi, Engine.startItem_nextPiece]
    rfl
  · refine State.runEngine_finish (s.setEngine s.engine.ackDown) b .done e hb hw _ (hfall.trans ?_)
    simp only [e] at hi hx
    simp [Engine.itemDone, Engine.ackDown, hi, hx, e]
  · refine silent ?_
    simp only [e] at hi hx
    simp only [Engine.itemDone, hi, hx, e, if_true]
    rfl

/-- Settles O25. -/
theorem forwardBytesCross : Obligations.ForwardBytesCross := ⟨forwardByteCrossesInFourEdges, forwardByteCompletes⟩

/-! ## Offers (R56, R59, R62, R63, R66, R67) -/

/-- Settles the first part of O27. -/
theorem revackRiseTurnsBusRound : Claims.RevackRiseTurnsBusRound := by
  intro s b lines hs hb hw hend hfits hrev
  have hturn : (s.engine.revackUp lines).revackRise s.busConfig =
      (reverseEntered (s.bayConfig b) (s.engine.revackUp lines), []) := by
    rw [s.busConfig_selected b hb]
    exact (s.engine.revackUp lines).revackRise_turning _ hs
  have hrun : ((s.setEngine (s.engine.revackUp lines)).runEngine fun e => e.revackRise s.busConfig) =
      s.setEngine (reverseEntered (s.bayConfig b) (s.engine.revackUp lines)) :=
    (s.setEngine (s.engine.revackUp lines)).runEngine_silent hturn
  refine ⟨_, exec_mbRevackRise s lines hrev, ?_⟩
  rw [hrun]
  intro e
  refine ⟨fun hack => ?_, fun hack => ?_⟩
  · exact State.takeOffer_none _ (Engine.offered_of_ack _ hack)
  · exact s.takeOffer_spec b e hb hw hend rfl rfl hack hfits

/-- Settles the second part of O27. -/
theorem offerIsTakenOrRefused : Claims.OfferIsTakenOrRefused := by
  intro s b lines hs hk hb hw hend hfits hack
  have hrun : (s.setEngine (s.engine.ackUp lines)).runEngine Engine.ackRise = s.setEngine (s.engine.ackUp lines) :=
    (s.setEngine (s.engine.ackUp lines)).runEngine_silent
      ((s.engine.ackUp lines).ackRise_moves (by simp [Engine.ackUp, hs]) (by simp [Engine.ackUp, hk]))
  refine ⟨_, exec_mbAckRise s lines hack, ?_⟩
  rw [hrun]
  exact s.takeOffer_spec b (s.engine.ackUp lines) hb hw hend hs hk rfl hfits

/-- Settles O27. -/
theorem offersAreExamined : Obligations.OffersAreExamined := ⟨revackRiseTurnsBusRound, offerIsTakenOrRefused⟩

/-! ## The ways out of the reverse phase (R56, R59, R63, R64, R69, R72) -/

/-- Settles the first part of O28. -/
theorem reverseByteCompletes : Claims.ReverseByteCompletes := by
  intro s b hs hb hw ha hack
  have hfall : s.engine.ackDown.ackFall s.busConfig = s.engine.ackDown.reverseFall (s.bayConfig b) := by
    rw [s.busConfig_selected b hb]
    exact s.engine.ackDown.ackFall_reverse _ hs
  refine ⟨_, exec_mbAckFall s hack, fun hk => ?_, fun hk => ?_⟩
  · exact (s.setEngine s.engine.ackDown).runEngine_silent
      (hfall.trans (s.engine.ackDown.reverseFall_taken _ hk))
  · refine Engine.releaseIfLow_closes s b _ .done s.engine.ackDown .turningBack none hb hw _ (hfall.trans ?_)
    rw [← Engine.turnBack_eq _ _ (show s.engine.ackDown.abortStep = none from ha)]
    exact s.engine.ackDown.reverseFall_takenEnd _ hk

/-- Settles the second part of O28. -/
theorem revackFallEndsReverse : Claims.RevackFallEndsReverse := by
  intro s b hs hb hw hrev hk
  have hfall : s.engine.revackDown.revackFall s.busConfig =
      s.engine.revackDown.refuse (s.bayConfig b) .protocol := by
    rw [s.busConfig_selected b hb]
    exact (s.engine.revackDown.revackFall_reverse _ hs).trans (if_neg hk)
  refine ⟨_, exec_mbRevackFall s hrev, ?_⟩
  rw [State.runEngine_setEngine, hfall]
  exact Engine.refuse_spec s b _ .protocol s.engine.revackDown hb hw

/-- Settles the third part of O28. -/
theorem closingEndsWhenLinesAreLow : Claims.ClosingEndsWhenLinesAreLow := by
  intro s b x hb hw hwait
  refine ⟨fun hack => ⟨_, exec_mbAckFall s hack, ?_⟩, fun hrev => ⟨_, exec_mbRevackFall s hrev, ?_⟩⟩
  · rw [State.runEngine_setEngine, s.engine.ackDown.ackFall_waits _ hwait]
    obtain ⟨hlow, hhigh⟩ := Engine.releaseIfLow_spec s b x s.engine.ackDown hb hw
    exact ⟨fun h => hlow (by simp [lineHigh, Engine.ackDown, h]),
      fun h => hhigh (by simp [lineHigh, Engine.ackDown, h])⟩
  · rw [State.runEngine_setEngine, s.engine.revackDown.revackFall_waits _ hwait]
    obtain ⟨hlow, hhigh⟩ := Engine.releaseIfLow_spec s b x s.engine.revackDown hb hw
    exact ⟨fun h => hlow (by simp [lineHigh, Engine.revackDown, h]),
      fun h => hhigh (by simp [lineHigh, Engine.revackDown, h])⟩

/-- Settles O28. -/
theorem reversePhaseCloses : Obligations.ReversePhaseCloses :=
  ⟨reverseByteCompletes, revackFallEndsReverse, closingEndsWhenLinesAreLow⟩

/-! ## Timers (R63, R64, R68, R71, R72) -/

theorem exec_byteTimerExpiry (s : State) (h : s.engine.byteTimer.isSome) :
    exec .byteTimerExpiry s = .next (s.runEngine fun e => e.byteExpiry s.busConfig) :=
  congrArg Host.Outcome.next (if_pos h)

theorem exec_turnaroundTimerExpiry (s : State) (h : s.engine.turnTimer.isSome) :
    exec .turnaroundTimerExpiry s = .next (s.runEngine Engine.turnExpiry) :=
  congrArg Host.Outcome.next (if_pos h)

theorem exec_heldTimerExpiry (s : State) (h : s.engine.heldTimer.isSome) :
    exec .heldTimerExpiry s = .next (s.runEngine Engine.heldExpiry) :=
  congrArg Host.Outcome.next (if_pos h)

/-- Settles O29, by the timer and the engine state. -/
theorem busTimersExpire : Obligations.BusTimersExpire := by
  intro s b hb hw e c
  have config : s.busConfig = c := s.busConfig_selected b hb
  have ends {x : Ending} {f : Engine → Engine × List Report} (h : f e = e.finish x) :
      MessageEnds x b s (s.runEngine f) e := State.runEngine_finish s b x e hb hw f h
  refine ⟨fun ht => ⟨_, exec_byteTimerExpiry s ht, fun hs => ends ?_, fun hs hk => ends ?_, fun hs hk ha => ?_,
    fun hs ha => ?_, fun hs ha => ends ?_⟩, fun ht => ⟨_, exec_turnaroundTimerExpiry s ht, fun hs => ends ?_,
    fun hs => ends ?_, fun hs => ends ?_⟩⟩
  · simp only [Engine.byteExpiry, hs]
  · simp only [Engine.byteExpiry, hs, if_neg hk]
  · have hback : e.byteExpiry s.busConfig = Engine.releaseIfLow (waiting c e .turningBack none) .done := by
      rw [config, ← Engine.turnBack_eq e c ha]
      simp only [Engine.byteExpiry, hs, if_pos hk]
    exact Engine.releaseIfLow_closes s b c .done e .turningBack none hb hw _ hback
  · refine s.runEngine_silent ?_
    simp only [Engine.byteExpiry, show s.engine.state = .aborting from hs, show s.engine.abortStep = _ from ha, config,
      if_true]
    rw [Engine.sendAbort, Engine.startItem_eq, ← hs]
    rfl
  · simp [Engine.byteExpiry, hs, ha]
  · simp only [Engine.turnExpiry, hs]
  · simp only [Engine.turnExpiry, hs]
  · simp only [Engine.turnExpiry, hs]

/-! ## Line watch (R75 to R77), and edges that only move their line (R55, R59, R62 to R64, R72) -/

theorem Engine.watch_high (e : Engine) (h : lineHigh e = true) :
    e.watch = ({ e with state := .held, heldTimer := some (ms 10) }, [.raise deviceSource BUS_HELD]) := if_pos h

theorem Engine.leaveHeld_eq (e : Engine) :
    e.leaveHeld =
      if lineHigh e then (e, [])
      else ({ e with state := .idle, heldTimer := none }, [.raise deviceSource BUS_RELEASED]) := rfl

/-- Settles the first part of O30. -/
theorem lineWatchHoldsBus : Claims.LineWatchHoldsBus := by
  intro s lines
  refine ⟨fun hs ha => ?_, fun hs hr => ?_, fun hs ha => ?_, fun hs hr => ?_, fun hs ha => ?_, fun hs hr => ?_⟩
  · have hrise := ((s.engine.ackUp lines).ackRise_idle hs).trans (Engine.watch_high _ rfl)
    rw [exec_mbAckRise s lines ha, (s.setEngine (s.engine.ackUp lines)).runEngine_reports hrise,
      State.takeOffer_none _ (Engine.offered_of_state _ (by simp))]
    rfl
  · have hrise := ((s.engine.revackUp lines).revackRise_idle s.busConfig hs).trans
      (Engine.watch_high _ (by simp [lineHigh, Engine.revackUp]))
    rw [exec_mbRevackRise s lines hr, (s.setEngine (s.engine.revackUp lines)).runEngine_reports hrise,
      State.takeOffer_none _ (Engine.offered_of_state _ (by simp))]
    rfl
  · refine exec_mbAckRise_silent s lines ha ?_ (Engine.offered_of_state (s.engine.ackUp lines) ?_)
    · apply Engine.ackRise_elsewhere <;> simp [Engine.ackUp, hs]
    · simp [Engine.ackUp, hs]
  · refine exec_mbRevackRise_silent s lines hr ?_ (Engine.offered_of_state (s.engine.revackUp lines) ?_)
    · apply Engine.revackRise_moves <;> simp [Engine.revackUp, hs]
    · simp [Engine.revackUp, hs]
  · rw [exec_mbAckFall s ha, State.runEngine_setEngine, s.engine.ackDown.ackFall_held _ hs, Engine.leaveHeld_eq]
    cases hr : s.engine.revack <;> simp [lineHigh, Engine.ackDown, State.setEngine, State.handAll, hr]
  · rw [exec_mbRevackFall s hr, State.runEngine_setEngine, s.engine.revackDown.revackFall_held _ hs,
      Engine.leaveHeld_eq]
    cases ha : s.engine.ack <;> simp [lineHigh, Engine.revackDown, State.setEngine, State.handAll, ha]

/-- Settles the second part of O30. -/
theorem heldExpiryBlamesOnce : Claims.HeldExpiryBlamesOnce := by
  intro s h
  rw [exec_heldTimerExpiry s h]
  cases hu : s.engine.lastUsed <;>
    simp [State.runEngine, State.setEngine, State.handAll, Engine.heldExpiry, hu]

/-- Settles the third part of O30, by the line, its edge and the engine state. -/
theorem otherEdgesOnlyMoveLines : Claims.OtherEdgesOnlyMoveLines := by
  intro s lines e moved forward ended closing
  refine ⟨fun hr hs => ?_, fun hr hs => ?_, fun ha hs => ?_, fun ha hs => ?_⟩
  · have hmoves : (e.revackUp lines).revackRise s.busConfig = (e.revackUp lines, []) := by
      rcases hs with (h | ⟨h, -⟩) | ⟨h, -⟩ | h | ⟨h, -⟩ <;>
        exact (e.revackUp lines).revackRise_moves _ (by simp [Engine.revackUp, h]) (by simp [Engine.revackUp, h])
    refine exec_mbRevackRise_silent s lines hr hmoves ?_
    rcases hs with (h | ⟨h, -⟩) | ⟨-, hk⟩ | h | ⟨h, -⟩
    case inr.inl => exact Engine.offered_of_handshake _ (by simp [hk])
    all_goals exact Engine.offered_of_state _ (by simp [h])
  · refine exec_mbRevackFall_silent s hr ?_
    rcases hs with h | ⟨h, hk⟩
    · exact e.revackDown.revackFall_sends _ h
    · exact (e.revackDown.revackFall_reverse _ h).trans (if_pos hk)
  · have hmoves : (e.ackUp lines).ackRise = (e.ackUp lines, []) := by
      rcases hs with h | h | ⟨h, -, hk⟩
      · apply Engine.ackRise_elsewhere <;> simp [Engine.ackUp, h]
      · apply Engine.ackRise_elsewhere <;> simp [Engine.ackUp, h]
      · apply Engine.ackRise_moves <;> simp [Engine.ackUp, h, hk]
    refine exec_mbAckRise_silent s lines ha hmoves (Engine.offered_of_state _ ?_)
    rcases hs with h | h | ⟨h, -⟩ <;> simp [h]
  · exact exec_mbAckFall_silent s ha (e.ackDown.ackFall_turning _ hs)

/-- Settles O30. -/
theorem heldBusIsWatched : Obligations.HeldBusIsWatched :=
  ⟨lineWatchHoldsBus, heldExpiryBlamesOnce, otherEdgesOnlyMoveLines⟩

/-! ## Abort and abandon requests (R70, R71, R73) -/

/-- ABORTING with step SEND-ABORT, as the statements spell it (R71). -/
theorem Engine.sendAbort_eq (e : Engine) (c : BayConfig) :
    e.sendAbort c =
      byteDue c { e with state := .aborting, abortStep := some .sendAbort } .abort ⟨true, 0x11⟩ := rfl

theorem exec_abortRequest (s : State) (w : Work) :
    exec (.abortRequest w) s =
      .next (({ s with handed := s.handed.erase (.abortRequest w) } : State).runEngine
        fun e => e.abort s.busConfig w) := by
  rw [← s.takeAbortReport_eq w]
  rfl

theorem Engine.abort_other (e : Engine) (c : BayConfig) (w : Work) (hw : e.work ≠ some w) :
    e.abort c w = (e, []) := if_neg hw

/-- An abort of the work on the bus in FORWARD (R70). -/
theorem Engine.abort_forward (e : Engine) (c : BayConfig) (w : Work) (hw : e.work = some w) (hs : e.state = .forward) :
    e.abort c w =
      if e.handshake = .due then (e.sendAbort c, [])
      else ({ e with state := .aborting, abortStep := some .finishByte }, []) := by
  rw [Engine.abort, if_pos hw]
  simp only [hs]

theorem Engine.abort_waits (e : Engine) (c : BayConfig) (w : Work) (hw : e.work = some w)
    (hs : e.state = .turning ∨ e.state = .reverse) : e.abort c w = e.waitLines c := by
  rw [Engine.abort, if_pos hw]
  rcases hs with hs | hs <;> simp only [hs]

/-- An abort comes too late once the message closes (R64, R70). -/
theorem Engine.abort_late (e : Engine) (c : BayConfig) (w : Work) (hw : e.work = some w)
    (hs : e.state = .turningBack ∨ e.state = .aborting) : e.abort c w = (e, []) := by
  rw [Engine.abort, if_pos hw]
  rcases hs with hs | hs <;> rw [hs]

/-- Settles the first part of O31, by the engine state. -/
theorem abortRequestActsByState : Claims.AbortRequestActsByState := by
  intro s w u e
  refine ⟨_, exec_abortRequest s w, fun hw => ?_, fun b hw hb => ?_⟩
  · exact State.runEngine_silent _ (Engine.abort_other e _ w hw)
  rw [s.busConfig_selected b hb]
  refine ⟨fun hs hk => ?_, fun hs hk => ?_, fun hs => ?_, fun hs => ?_⟩
  · exact State.runEngine_silent _ ((e.abort_forward _ w hw hs).trans (if_neg hk))
  · exact State.runEngine_silent _ ((e.abort_forward _ w hw hs).trans (if_pos hk))
  · exact Engine.releaseIfLow_closes u b _ .aborted e .aborting (some .waitLines) hb (by simp [hw]) _
      (e.abort_waits _ w hw hs)
  · exact State.runEngine_silent _ (e.abort_late _ w hw hs)

/-- Settles the second part of O31, by the abort step. -/
theorem forwardAbortSendsAbort : Claims.ForwardAbortSendsAbort := by
  intro s b hs hb hw hack hk
  have fall (ha : s.engine.abortStep ≠ some .waitLines) :
      s.engine.ackDown.ackFall s.busConfig = s.engine.ackDown.forwardFall (s.bayConfig b) := by
    rw [s.busConfig_selected b hb]
    exact s.engine.ackDown.ackFall_sends _ (.inr ⟨hs, ha⟩)
  refine ⟨_, exec_mbAckFall s hack, ?_⟩
  intro c e
  have finished (ha : e.abortStep = some .finishByte) :
      s.engine.ackDown.ackFall s.busConfig = (e.finishByte c, []) :=
    (fall (by simp [show s.engine.abortStep = _ from ha])).trans (e.forwardFall_finishByte c hk ha)
  have stays : e.state = .aborting := hs
  refine ⟨fun ha hi => ?_, fun n ha hi => ?_, fun ha hi => ?_⟩
  · refine (s.setEngine s.engine.ackDown).runEngine_silent ((finished ha).trans ?_)
    have hbyte : e.finishByte c = e.sendAbort c := by
      unfold Engine.finishByte
      split
      · next n h => exact absurd h (hi n)
      · rfl
    rw [hbyte, Engine.sendAbort_eq, ← stays]
  · refine (s.setEngine s.engine.ackDown).runEngine_silent ((finished ha).trans ?_)
    simp only [Engine.finishByte, hi, Engine.sendAbort_eq, Engine.advanceData, ← stays]
  · refine State.runEngine_finish (s.setEngine s.engine.ackDown) b .aborted e hb hw _ ?_
    refine (fall (by simp [show s.engine.abortStep = _ from ha])).trans ?_
    refine (Engine.forwardFall_acked e c hk (by simp [ha])).trans ?_
    simp only [Engine.itemDone, hi]

/-- Settles the third part of O31. -/
theorem abandonReleasesAtOnce : Claims.AbandonReleasesAtOnce := fun s w => ⟨_, rfl, s.abandon_spec w⟩

/-- Settles O31. -/
theorem abortsAndAbandonsAreTaken : Obligations.AbortsAndAbandonsAreTaken :=
  ⟨abortRequestActsByState, forwardAbortSendsAbort, abandonReleasesAtOnce⟩

/-! ## Grants (R54, R80, R114, R116, R118) -/

theorem State.busFree_of_idle (s : State) (hs : s.engine.state = .idle)
    (ha : ∀ j : SlotNo, (s.slot j).state ≠ .active) : s.busFree = true := by
  simp [State.busFree, hs, s.activeSlot?_none ha]

/-- The scan answers for the first bay after the last-served one that has something to offer (R116). -/
theorem scanOrder_findSome? {α : Type} (last b : BayNo) (f : BayNo → Option α) {a : α} (hb : f b = some a)
    (hm : ∀ c, (f c).isSome → scanPlace last b ≤ scanPlace last c) : (scanOrder last).findSome? f = some a := by
  have hfind := scanOrder_find? last b (fun c => (f c).isSome) (by simp [hb]) hm
  obtain ⟨-, before, after, horder, hnone⟩ := List.find?_eq_some_iff_append.mp hfind
  exact List.findSome?_eq_some_iff.mpr ⟨before, b, after, horder, hb, fun c hc => by simpa using hnone c hc⟩

theorem Report.beforeRead_eq (b : BayNo) : Report.beforeRead b = ofEarlier b := by
  funext r
  cases r <;> rfl

/-- What a selection changes (R54, R115; assumption log 13). -/
theorem State.selectWork_eq (s : State) (w : Work) (b : BayNo) (m : Message) :
    s.selectWork w b m =
      { s with
        engine := s.engine.select (s.bayConfig b) w b m, lastServed := b,
        handed := s.handed.filter fun r => r != .abortRequest w } := by
  rw [← filter_isAbortOf]
  rfl

/-- Settles the first part of O24. -/
theorem grantSelectsIdentityRead : Claims.GrantSelectsIdentityRead := by
  intro s b hs ha hr hfirst
  have hchoice : s.choice? = some (.identity b) := by
    have := scanOrder_find? s.lastServed b s.readCandidate (by simp [State.readCandidate, hr])
      fun c hc => hfirst c (by simpa [State.readCandidate] using hc)
    simp only [State.choice?, this]
  have hgrant : s.grant = s.grantRead b := by
    simp only [State.grant, s.busFree_of_idle hs ha, if_true, hchoice]
  refine ⟨_, congrArg Host.Outcome.next hgrant, ?_, fun c hc => ?_, ?_, ?_⟩
  · rw [State.grantRead, State.selectWork_eq]
    simp [State.setBay, State.beginRead, Report.beforeRead_eq, State.setHanded]
  · simp [State.grantRead, hc]
  · simp [State.grantRead]
  · rw [State.grantRead, State.selectWork_eq]
    exact Engine.select_eq _ _ _ _ _ _ (if_pos rfl).symm

/-- Settles the second part of O24. -/
theorem grantSelectsHeadJob : Claims.GrantSelectsHeadJob := by
  intro s b j rest hs ha hr hb hq hnodup hj hfirst
  have hread : (scanOrder s.lastServed).find? s.readCandidate = none :=
    List.find?_eq_none.mpr fun c _ => by simp [State.readCandidate, hr c]
  have hcand : s.jobCandidate? b = some j := by simp [State.jobCandidate?, hb, hq]
  have hjob : (scanOrder s.lastServed).findSome? s.jobCandidate? = some j := by
    refine scanOrder_findSome? s.lastServed b s.jobCandidate? hcand fun c hc => ?_
    by_cases hact : (s.bay c).state = .active
    · refine hfirst c hact fun he => ?_
      simp [State.jobCandidate?, hact, he] at hc
    · simp [State.jobCandidate?, hact] at hc
  have hgrant : s.grant = s.grantJob j := by
    simp only [State.grant, s.busFree_of_idle hs ha, if_true, State.choice?, hread, hjob, Option.map_some]
  have hrest : (s.queue b).filter (fun i => i != j) = rest := by
    obtain ⟨hnot, -⟩ := List.nodup_cons.mp (hq ▸ hnodup)
    rw [hq, List.filter_cons_of_neg (by simp), List.filter_eq_self]
    intro i hi
    simpa using fun h : i = j => hnot (h ▸ hi)
  refine ⟨_, congrArg Host.Outcome.next hgrant, ?_, ?_, ?_, fun c hc => ?_, fun i hi => ?_, ?_, ?_⟩
  · rw [State.grantJob, State.selectWork_eq]
    simp only [hj]
    rfl
  · simp [State.grantJob]
  · simp [State.grantJob, hj, hrest]
  · simp [State.grantJob, hj, hc]
  · simp [State.grantJob, hi]
  · simp [State.grantJob, Slot.granted]
  · rw [State.grantJob, State.selectWork_eq]
    simp only [hj]
    refine (Engine.select_eq _ _ _ _ _ s.engine.identityBuffer (if_neg nofun).symm).trans ?_
    simp [State.jobMessage, Slot.granted]

/-- Settles O24. -/
theorem grantSelectsNextWork : Obligations.GrantSelectsNextWork := ⟨grantSelectsIdentityRead, grantSelectsHeadJob⟩

end Sys2Proof.Machine
end

section
/-! PROOFS. The Module Bus Engine by the phase of its message, and that every event on the bus keeps its record legal
(R52 to R57, R60, R67, R74, R75). -/

namespace Sys2Proof.Machine

open Sys2Proof.Claims

/-! ## The phases of a message -/

/-- What a message keeps from its selection to its release (R54, R60, R67). -/
def Engine.Carrying (e : Engine) : Prop :=
  e.work.isSome ∧ e.selected.isSome ∧ (∀ b : BayNo, e.work = some (.identity b) → e.selected = some b) ∧
    e.selv = true ∧ e.sel = BitVec.ofNat 3 (e.selected.elim 0 Fin.val) ∧ e.lastUsed = e.selected ∧
    e.heldTimer = none ∧ e.bytesIn ≤ e.message.inLimit

/-- The part drives no byte and none of its own is in hand (R53). -/
def Engine.Silent (e : Engine) : Prop := e.item = none ∧ e.drive = none

/-- No message: nothing selected, no line of the part raised, no byte and no wait timed (R74). -/
def Engine.Unselected (e : Engine) : Prop :=
  (e.work = none ∧ e.selected = none ∧ e.selv = false ∧ e.sel = 0) ∧ (e.rev = false ∧ e.stb = false) ∧ e.Silent ∧
    (e.handshake = .none ∧ e.abortStep = none) ∧ (e.byteTimer = none ∧ e.turnTimer = none) ∧
    e.bytesIn ≤ e.message.inLimit

/-- No work: IDLE with both module lines low, or HELD with one high (R75, R77). -/
structure Engine.Resting (e : Engine) : Prop where
  unselected : e.Unselected
  watch : e.state = .idle ∧ e.ack = false ∧ e.revack = false ∧ e.heldTimer = none ∨
    e.state = .held ∧ (e.ack = true ∨ e.revack = true)

/-- The state and abort step in which the part sends this piece (R61, R71). -/
def Engine.MaySend (e : Engine) (i : ForwardItem) : Prop :=
  e.state = .forward ∧ e.abortStep = none ∨ e.state = .aborting ∧ e.abortStep = some .finishByte ∨
    e.state = .aborting ∧ e.abortStep = some .sendAbort ∧ i = .abort

/-- Where the four edges of a forward byte stand (R55). -/
def Engine.ByteCrosses (e : Engine) : Prop :=
  e.handshake = .due ∧ e.ack = true ∧ e.stb = false ∨ e.handshake = .strobed ∧ e.ack = false ∧ e.stb = true ∨
    e.handshake = .acked ∧ e.ack = true ∧ e.stb = false

/-- The part sends, and nothing has ended (R53, R61, R71). -/
structure Engine.Forwards (e : Engine) : Prop where
  rev : e.rev = false
  turnTimer : e.turnTimer = none
  ending : e.ending = none
  byteTimer : e.byteTimer.isSome
  drive : e.drive.isSome
  item : ∃ i, e.item = some i ∧ e.MaySend i
  edge : e.ByteCrosses

/-- MB_REV is raised and MB_REVACK is awaited (R62). -/
structure Engine.Turns (e : Engine) : Prop where
  state : e.state = .turning ∧ e.abortStep = none
  silent : e.Silent
  lines : e.rev = true ∧ e.stb = false ∧ e.revack = false
  handshake : e.handshake = .none
  timers : e.byteTimer = none ∧ e.turnTimer.isSome
  ending : e.ending = none

/-- Where the edges of a reverse byte stand (R56), and the ending, which the module's END fixes (R63). -/
def Engine.ByteAwaited (e : Engine) : Prop :=
  e.handshake = .offer ∧ e.ack = false ∧ e.stb = false ∧ e.revack = true ∧ e.ending = none ∨
    e.handshake = .taken ∧ e.ack = true ∧ e.stb = true ∧ e.revack = true ∧ e.ending = none ∨
    e.handshake = .takenEnd ∧ e.ack = true ∧ e.stb = true ∧ e.ending = some .done

/-- REVERSE, whatever byte is in hand (R57, R63). -/
structure Engine.Reverses (e : Engine) : Prop where
  state : e.state = .reverse ∧ e.abortStep = none
  silent : e.Silent
  rev : e.rev = true
  timers : e.byteTimer.isSome ∧ e.turnTimer = none

/-- MB_REV has fallen and the module's lines are awaited (R64, R72). -/
structure Engine.AwaitsLines (e : Engine) : Prop where
  state : e.state = .turningBack ∧ e.abortStep = none ∧ e.ending = some .done ∨
    e.state = .aborting ∧ e.abortStep = some .waitLines
  silent : e.Silent
  lines : e.rev = false ∧ e.stb = false
  handshake : e.handshake = .none
  timers : e.byteTimer = none ∧ e.turnTimer.isSome
  high : e.ack = true ∨ e.revack = true

/-- The engine is in one phase. -/
inductive Engine.Phase (e : Engine) : Prop
  | rests (h : e.Resting)
  | forwards (hc : e.Carrying) (h : e.Forwards)
  | turns (hc : e.Carrying) (h : e.Turns)
  | reverses (hc : e.Carrying) (h : e.Reverses) (hb : e.ByteAwaited)
  | awaitsLines (hc : e.Carrying) (h : e.AwaitsLines)

/-! ## Each phase is legal -/

theorem Engine.Resting.legal {e : Engine} (h : e.Resting) : e.Legal := by
  obtain ⟨⟨⟨hw, hsel, hv, hn⟩, ⟨hr, hs⟩, ⟨hi, hd⟩, ⟨hk, ha⟩, ⟨hbt, htt⟩, hfits⟩, hwatch⟩ := h
  rcases hwatch with ⟨hst, hack, hrev, hheld⟩ | ⟨hst, hline⟩
  all_goals
    simp [Engine.Legal, Engine.SelectionLegal, Engine.LinesLegal, Engine.HandshakeLegal, Engine.TimersLegal,
      Engine.CountsLegal, Engine.forwarding, Engine.closing, *]

/-- The selection of a message in progress is legal where MB_REV and the abort step are those of the state (R53,
R54). -/
theorem Engine.Carrying.selectionLegal {e : Engine} (h : e.Carrying) (hs : e.state ≠ .idle ∧ e.state ≠ .held)
    (hr : e.rev = true ↔ e.state = .turning ∨ e.state = .reverse) (ha : e.abortStep.isSome ↔ e.state = .aborting) :
    e.SelectionLegal := by
  obtain ⟨hw, hsel, hread, hv, hn, hu, -, -⟩ := h
  have work_some := Option.isSome_iff_ne_none.mp hw
  have selected_some := Option.isSome_iff_ne_none.mp hsel
  exact ⟨by simp [work_some, hs], by simp [work_some, selected_some], hread, hv.trans hw.symm, hn, fun _ => hu, hr, ha⟩

theorem Engine.Carrying.held {e : Engine} (h : e.Carrying) : e.heldTimer = none := by
  obtain ⟨-, -, -, -, -, -, hheld, -⟩ := h
  exact hheld

theorem Engine.Carrying.fits {e : Engine} (h : e.Carrying) : e.bytesIn ≤ e.message.inLimit := by
  obtain ⟨-, -, -, -, -, -, -, hfits⟩ := h
  exact hfits

theorem Engine.Forwards.legal {e : Engine} (hc : e.Carrying) (h : e.Forwards) : e.Legal := by
  obtain ⟨hr, htt, hend, hbt, hd, ⟨i, hi, hsend⟩, hedge⟩ := h
  have hsel : e.SelectionLegal := by
    apply hc.selectionLegal <;> rcases hsend with ⟨hs, ha⟩ | ⟨hs, ha⟩ | ⟨hs, ha, -⟩ <;> simp [hs, ha, hr]
  have hforward : e.forwarding = true := by
    rcases hsend with ⟨hs, ha⟩ | ⟨hs, ha⟩ | ⟨hs, ha, -⟩ <;> simp [Engine.forwarding, hs, ha]
  have hclosing : e.closing = false := by
    rcases hsend with ⟨hs, ha⟩ | ⟨hs, ha⟩ | ⟨hs, ha, -⟩ <;> simp [Engine.closing, hs, ha]
  have hstate : e.state = .forward ∨ e.state = .aborting := hsend.imp And.left fun h => h.elim And.left And.left
  have habort : e.abortStep = some .sendAbort → e.item = some .abort := by
    rcases hsend with ⟨-, ha⟩ | ⟨-, ha⟩ | ⟨-, -, rfl⟩ <;> simp [*]
  have hitem : e.item.isSome := by simp [hi]
  refine ⟨hsel, ?_, ?_, ?_, ?_⟩
  · rcases hstate with hs | hs <;> simp [Engine.LinesLegal, hclosing, hs]
  · rcases hedge with ⟨hk, ha, hstb⟩ | ⟨hk, ha, hstb⟩ | ⟨hk, ha, hstb⟩ <;> rcases hstate with hs | hs <;>
      simpa [Engine.HandshakeLegal, hforward, hs, hk, ha, hstb, hd, hitem] using habort
  · rcases hstate with hs | hs <;> simp [Engine.TimersLegal, hforward, hclosing, hs, hbt, htt, hc.held]
  · rcases hstate with hs | hs <;> simp [Engine.CountsLegal, hend, hs, hc.fits]

theorem Engine.Turns.legal {e : Engine} (hc : e.Carrying) (h : e.Turns) : e.Legal := by
  obtain ⟨⟨hs, ha⟩, ⟨hi, hd⟩, ⟨hr, hstb, hrev⟩, hk, ⟨hbt, htt⟩, hend⟩ := h
  refine ⟨hc.selectionLegal ?_ ?_ ?_, ?_⟩
  all_goals
    simp [Engine.LinesLegal, Engine.HandshakeLegal, Engine.TimersLegal, Engine.CountsLegal, Engine.forwarding,
      Engine.closing, hc.held, hc.fits, *]

theorem Engine.Reverses.legal {e : Engine} (hc : e.Carrying) (h : e.Reverses) (hb : e.ByteAwaited) : e.Legal := by
  obtain ⟨⟨hs, ha⟩, ⟨hi, hd⟩, hr, ⟨hbt, htt⟩⟩ := h
  refine ⟨hc.selectionLegal ?_ ?_ ?_, ?_⟩
  case refine_4 =>
    rcases hb with ⟨hk, hack, hstb, hrev, hend⟩ | ⟨hk, hack, hstb, hrev, hend⟩ | ⟨hk, hack, hstb, hend⟩ <;>
      simp [Engine.LinesLegal, Engine.HandshakeLegal, Engine.TimersLegal, Engine.CountsLegal, Engine.forwarding,
        Engine.closing, hc.held, hc.fits, *]
  all_goals simp [*]

theorem Engine.AwaitsLines.legal {e : Engine} (hc : e.Carrying) (h : e.AwaitsLines) : e.Legal := by
  obtain ⟨hstate, ⟨hi, hd⟩, ⟨hr, hstb⟩, hk, ⟨hbt, htt⟩, hhigh⟩ := h
  refine ⟨hc.selectionLegal ?_ ?_ ?_, ?_⟩
  case refine_4 =>
    rcases hstate with ⟨hs, ha, hend⟩ | ⟨hs, ha⟩ <;>
      simp [Engine.LinesLegal, Engine.HandshakeLegal, Engine.TimersLegal, Engine.CountsLegal, Engine.forwarding,
        Engine.closing, hc.held, hc.fits, *]
  all_goals rcases hstate with ⟨hs, ha, -⟩ | ⟨hs, ha⟩ <;> simp [*]

theorem Engine.Phase.legal {e : Engine} (h : e.Phase) : e.Legal := by
  cases h with
  | rests h => exact h.legal
  | forwards hc h => exact h.legal hc
  | turns hc h => exact h.legal hc
  | reverses hc h hb => exact h.legal hc hb
  | awaitsLines hc h => exact h.legal hc

/-! ## A legal engine is in a phase -/

theorem Engine.Legal.carrying {e : Engine} (h : e.Legal) (hi : e.state ≠ .idle) (hh : e.state ≠ .held) :
    e.Carrying := by
  obtain ⟨⟨hw, hsel, hread, hv, hn, hu, -, -⟩, -, -, ⟨-, -, hheld⟩, -, -, -, hfits⟩ := h
  have work_some : e.work ≠ none := fun hn => (hw.mp hn).elim hi hh
  have selected_some := Option.isSome_iff_ne_none.mpr fun hn => work_some (hsel.mp hn)
  have hwork := Option.isSome_iff_ne_none.mpr work_some
  refine ⟨hwork, selected_some, hread, hv.trans hwork, hn, hu selected_some, ?_, hfits⟩
  exact Option.not_isSome_iff_eq_none.mp fun ht => hh (hheld ht)

/-- Where the part does not send and no reverse byte is in hand, the handshake rests (R53, R55, R56). -/
theorem Engine.Legal.quiet {e : Engine} (h : e.Legal) (hf : e.forwarding = false) (hr : e.state ≠ .reverse) :
    e.handshake = .none ∧ e.stb = false ∧ e.Silent ∧ e.byteTimer = none := by
  obtain ⟨-, -, ⟨hsends, hawaits, hstb, -, -, hdrive, hitem, -⟩, ⟨hbyte, -, -⟩, -⟩ := h
  simp only [hf, hr, false_iff, or_false, Bool.false_eq_true, not_or] at hsends hawaits hdrive hitem hbyte
  refine ⟨?_, ?_, ⟨?_, ?_⟩, ?_⟩
  · cases hk : e.handshake <;> simp_all
  · simpa [hsends, hawaits] using hstb
  · simpa using hitem
  · simpa using hdrive
  · simpa using hbyte

theorem Engine.Legal.resting {e : Engine} (h : e.Legal) (hs : e.state = .idle ∨ e.state = .held) : e.Resting := by
  have hf : e.forwarding = false := by rcases hs with hs | hs <;> simp [Engine.forwarding, hs]
  have hc : e.closing = false := by rcases hs with hs | hs <;> simp [Engine.closing, hs]
  obtain ⟨hk, hstb, hsilent, hbyte⟩ := h.quiet hf (by rcases hs with hs | hs <;> simp [hs])
  obtain ⟨⟨hw, hsel, -, hv, hn, -, hrev, ha⟩, ⟨hidle, hheld, -, -⟩, -, ⟨-, hturn, hht⟩, -, -, -, hfits⟩ := h
  have no_work : e.work = none := hw.mpr hs
  have not_selected : e.selected = none := hsel.mpr no_work
  have no_rev : e.rev = false := by rcases hs with hs | hs <;> simpa [hs] using hrev
  have no_step : e.abortStep = none := by rcases hs with hs | hs <;> simpa [hs] using ha
  have no_turn : e.turnTimer = none := by rcases hs with hs | hs <;> simpa [hs, hc] using hturn
  refine ⟨⟨⟨no_work, not_selected, by simp [hv, no_work], by simp [hn, not_selected]⟩, ⟨no_rev, hstb⟩, hsilent,
    ⟨hk, no_step⟩, ⟨hbyte, no_turn⟩, hfits⟩, hs.imp (fun hs => ⟨hs, ?_⟩) fun hs => ⟨hs, hheld (.inl hs)⟩⟩
  obtain ⟨hack, hrevack⟩ := hidle hs
  exact ⟨hack, hrevack, by simpa [hs] using hht⟩

theorem Engine.Legal.forwards {e : Engine} (h : e.Legal) (hs : e.Sends) : e.Forwards := by
  have hf : e.forwarding = true := by rcases hs with hs | ⟨hs, ha⟩ <;> simp [Engine.forwarding, *]
  have hc : e.closing = false := by rcases hs with hs | ⟨hs, ha⟩ <;> simp [Engine.closing, *]
  obtain ⟨⟨-, -, -, -, -, -, hrev, hstep⟩, -, ⟨hsends, -, hstb, hlow, hhigh, hdrive, hitem, habort⟩,
    ⟨hbyte, hturn, -⟩, ⟨hend, -⟩⟩ := h
  obtain ⟨i, hi⟩ := Option.isSome_iff_exists.mp (hitem.mpr hf)
  refine ⟨?_, ?_, hend (.inl hf), hbyte.mpr (.inl hf), hdrive.mpr hf, ⟨i, hi, ?_⟩, ?_⟩
  · rcases hs with hs | ⟨hs, -⟩ <;> simpa [hs] using hrev
  · rcases hs with hs | ⟨hs, -⟩ <;> simpa [hs, hc] using hturn
  · rcases hs with hs | ⟨hs, ha⟩
    · exact .inl ⟨hs, by simpa [hs] using hstep⟩
    · cases hstep' : e.abortStep with
      | none => simp [hs, hstep'] at hstep
      | some a =>
        cases a with
        | finishByte => exact .inr (.inl ⟨hs, hstep'⟩)
        | sendAbort => exact .inr (.inr ⟨hs, hstep', Option.some.inj (hi.symm.trans (habort hstep'))⟩)
        | waitLines => exact absurd hstep' ha
  · rcases hsends.mp hf with hk | hk | hk <;> simp [hk] at hstb hlow hhigh
    · exact .inl ⟨hk, hhigh, hstb⟩
    · exact .inr (.inl ⟨hk, hlow, hstb⟩)
    · exact .inr (.inr ⟨hk, hhigh, hstb⟩)

theorem Engine.Legal.turns {e : Engine} (h : e.Legal) (hs : e.state = .turning) : e.Turns := by
  obtain ⟨hk, hstb, hsilent, hbyte⟩ := h.quiet (by simp [Engine.forwarding, hs]) (by simp [hs])
  obtain ⟨⟨-, -, -, -, -, -, hrev, hstep⟩, ⟨-, -, hlow, -⟩, -, ⟨-, hturn, -⟩, ⟨hend, -⟩⟩ := h
  exact ⟨⟨hs, by simpa [hs] using hstep⟩, hsilent, ⟨hrev.mpr (.inl hs), hstb, hlow hs⟩, hk,
    ⟨hbyte, hturn.mpr (.inl hs)⟩, hend (.inr hs)⟩

theorem Engine.Legal.reverses {e : Engine} (h : e.Legal) (hs : e.state = .reverse) : e.Reverses ∧ e.ByteAwaited := by
  have hf : e.forwarding = false := by simp [Engine.forwarding, hs]
  have hc : e.closing = false := by simp [Engine.closing, hs]
  obtain ⟨⟨-, -, -, -, -, -, hrev, hstep⟩, ⟨-, -, -, hrevack⟩, ⟨-, hawaits, hstb, hlow, hhigh, hdrive, hitem, -⟩,
    ⟨hbyte, hturn, -⟩, ⟨-, hend, -⟩⟩ := h
  refine ⟨⟨⟨hs, by simpa [hs] using hstep⟩, ⟨by simpa [hf] using hitem, by simpa [hf] using hdrive⟩,
    hrev.mpr (.inr hs), ⟨hbyte.mpr (.inr hs), by simpa [hs, hc] using hturn⟩⟩, ?_⟩
  have hending := hend hs
  have hrevhigh := hrevack hs
  rcases hawaits.mp hs with hk | hk | hk <;> simp [hk] at hstb hlow hhigh hending hrevhigh
  · exact .inl ⟨hk, hlow, hstb, hrevhigh, hending⟩
  · exact .inr (.inl ⟨hk, hhigh, hstb, hrevhigh, hending⟩)
  · exact .inr (.inr ⟨hk, hhigh, hstb, hending⟩)

theorem Engine.Legal.awaitsLines {e : Engine} (h : e.Legal) {x : Ending} (hs : e.Waits x) : e.AwaitsLines := by
  have hf : e.forwarding = false := by rcases hs with ⟨hs, -⟩ | ⟨hs, ha, -⟩ <;> simp [Engine.forwarding, *]
  have hc : e.closing = true := by rcases hs with ⟨hs, -⟩ | ⟨hs, ha, -⟩ <;> simp [Engine.closing, *]
  obtain ⟨hk, hstb, hsilent, hbyte⟩ := h.quiet hf (by rcases hs with ⟨hs, -⟩ | ⟨hs, -⟩ <;> simp [hs])
  obtain ⟨⟨-, -, -, -, -, -, hrev, hstep⟩, ⟨-, hhigh, -⟩, -, ⟨-, hturn, -⟩, ⟨-, -, hend, -⟩⟩ := h
  refine ⟨?_, hsilent, ⟨?_, hstb⟩, hk, ⟨hbyte, hturn.mpr (.inr hc)⟩, hhigh (.inr hc)⟩
  · exact hs.imp (fun ⟨hs, _⟩ => ⟨hs, by simpa [hs] using hstep, hend hs⟩) fun ⟨hs, ha, _⟩ => ⟨hs, ha⟩
  · rcases hs with ⟨hs, -⟩ | ⟨hs, -⟩ <;> simpa [hs] using hrev

/-- The legal records are those of the five phases. -/
theorem Engine.legal_iff_phase (e : Engine) : e.Legal ↔ e.Phase := by
  refine ⟨fun h => ?_, Engine.Phase.legal⟩
  cases hs : e.state with
  | idle => exact .rests (h.resting (.inl hs))
  | held => exact .rests (h.resting (.inr hs))
  | forward => exact .forwards (h.carrying (by simp [hs]) (by simp [hs])) (h.forwards (.inl hs))
  | turning => exact .turns (h.carrying (by simp [hs]) (by simp [hs])) (h.turns hs)
  | reverse =>
    obtain ⟨hrev, hbyte⟩ := h.reverses hs
    exact .reverses (h.carrying (by simp [hs]) (by simp [hs])) hrev hbyte
  | turningBack => exact .awaitsLines (h.carrying (by simp [hs]) (by simp [hs])) (h.awaitsLines (.inl ⟨hs, rfl⟩))
  | aborting =>
    have hc := h.carrying (by simp [hs]) (by simp [hs])
    by_cases ha : e.abortStep = some .waitLines
    · exact .awaitsLines hc (h.awaitsLines (.inr ⟨hs, ha, rfl⟩))
    · exact .forwards hc (h.forwards (.inr ⟨hs, ha⟩))

/-! ## Into each phase -/

/-- The line watch puts an engine without a message in IDLE or in HELD (R74, R75). -/
theorem Engine.Unselected.legal_watch {e : Engine} (h : e.Unselected) : e.watch.1.Legal := by
  refine Engine.Resting.legal ?_
  unfold Engine.watch
  split
  · next hl => exact ⟨h, .inr ⟨rfl, by simpa using hl⟩⟩
  · next hl =>
    obtain ⟨hack, hrev⟩ : e.ack = false ∧ e.revack = false := by simpa using hl
    exact ⟨h, .inl ⟨rfl, hack, hrev, rfl⟩⟩

/-- HELD goes on with a line high, and ends in IDLE with both low (R77). -/
theorem Engine.Unselected.legal_leaveHeld {e : Engine} (h : e.Unselected) (hs : e.state = .held) :
    e.leaveHeld.1.Legal := by
  refine Engine.Resting.legal ?_
  unfold Engine.leaveHeld
  split
  · next hl => exact ⟨h, .inr ⟨hs, by simpa using hl⟩⟩
  · next hl =>
    obtain ⟨hack, hrev⟩ : e.ack = false ∧ e.revack = false := by simpa using hl
    exact ⟨h, .inl ⟨rfl, hack, hrev, rfl⟩⟩

/-- The ending is all that its fixing changes of the record (R60). -/
theorem Engine.fix_record (e : Engine) (x : Ending) : (e.fix x).1 = { e with ending := endingAfter e x } := by
  unfold Engine.fix endingAfter
  cases h : e.ending with
  | none => rfl
  | some y =>
    dsimp only
    rw [← h]

/-- The message ends and the bus is released, whatever the record before (R74). -/
theorem Engine.legal_finish (e : Engine) (x : Ending) (h : e.bytesIn ≤ e.message.inLimit) : (e.finish x).1.Legal := by
  have hrelease : (e.finish x).1 = (e.fix x).1.deselect.watch.1 := rfl
  rw [hrelease, e.fix_record]
  exact Engine.Unselected.legal_watch ⟨⟨rfl, rfl, rfl, rfl⟩, ⟨rfl, rfl⟩, ⟨rfl, rfl⟩, ⟨rfl, rfl⟩, ⟨rfl, rfl⟩, h⟩

/-- A closing engine is released, or waits on with a module line high (R64, R72). -/
theorem Engine.legal_releaseIfLow (e : Engine) (x : Ending) (hc : e.Carrying)
    (h : e.ack = true ∨ e.revack = true → e.AwaitsLines) : (e.releaseIfLow x).1.Legal := by
  unfold Engine.releaseIfLow
  split
  · next hl => exact (h (by simpa using hl)).legal hc
  · exact e.legal_finish x hc.fits

/-- MB_REV falls and the module's lines are awaited, from any record with no forward byte in hand (R69, R70, R72). -/
theorem Engine.legal_waitLines (e : Engine) (c : BayConfig) (hc : e.Carrying) (hs : e.Silent) :
    (e.waitLines c).1.Legal :=
  Engine.legal_releaseIfLow _ _ hc fun hl => ⟨.inr ⟨rfl, rfl⟩, hs, ⟨rfl, rfl⟩, rfl, ⟨rfl, rfl⟩, hl⟩

theorem Engine.legal_turnBack (e : Engine) (c : BayConfig) (hc : e.Carrying) (hs : e.Silent)
    (ha : e.abortStep = none) (hend : e.ending = some .done) : (e.turnBack c).1.Legal :=
  Engine.legal_releaseIfLow _ _ hc fun hl => ⟨.inl ⟨rfl, ha, hend⟩, hs, ⟨rfl, rfl⟩, rfl, ⟨rfl, rfl⟩, hl⟩

theorem Engine.legal_refuse (e : Engine) (c : BayConfig) (x : Ending) (hc : e.Carrying) (hs : e.Silent) :
    (e.refuse c x).1.Legal := by
  have hwait : (e.refuse c x).1 = ((e.fix x).1.waitLines c).1 := rfl
  rw [hwait, e.fix_record]
  exact Engine.legal_waitLines _ c hc hs

/-- A forward byte is due, and its four edges begin (R55). -/
theorem Engine.legal_startItem (e : Engine) (c : BayConfig) (i : ForwardItem) (hc : e.Carrying) (hr : e.rev = false)
    (ht : e.turnTimer = none) (hend : e.ending = none) (hi : e.MaySend i) : (e.startItem c i).Legal := by
  refine Engine.Forwards.legal hc ⟨hr, ht, hend, rfl, rfl, ⟨i, rfl, hi⟩, ?_⟩
  cases ha : e.ack
  · exact .inr (.inl ⟨by simp [Engine.startItem, ha], ha, by simp [Engine.startItem, ha]⟩)
  · exact .inl ⟨by simp [Engine.startItem, ha], ha, by simp [Engine.startItem, ha]⟩

theorem Engine.Forwards.legal_sendAbort {e : Engine} (hc : e.Carrying) (h : e.Forwards) (c : BayConfig) :
    (e.sendAbort c).Legal :=
  Engine.legal_startItem { e with state := .aborting, abortStep := some .sendAbort } c .abort hc h.rev h.turnTimer
    h.ending (.inr (.inr ⟨rfl, rfl, rfl⟩))

/-- A selection, whatever the record before it (R54). -/
theorem Engine.legal_select (e : Engine) (c : BayConfig) (w : Work) (b : BayNo) (m : Message)
    (hw : ∀ i, w = .identity i → i = b) : (e.select c w b m).Legal := by
  refine Engine.legal_startItem _ c .channel ⟨rfl, rfl, fun i hi => ?_, rfl, rfl, rfl, rfl, Nat.zero_le _⟩ rfl rfl rfl
    (.inl ⟨rfl, rfl⟩)
  rw [hw i (Option.some.inj hi)]

/-! ## Offers (R56, R67) -/

/-- An offer stands before the engine: the one record between two events that is not legal (R56). -/
structure Engine.Offering (e : Engine) : Prop extends e.Reverses where
  carrying : e.Carrying
  offer : e.handshake = .offer ∧ e.ack = true ∧ e.revack = true
  ending : e.ending = none

theorem Engine.copies_le_room (e : Engine) : e.copies ≤ e.room := by
  unfold Engine.copies
  split <;> omega

/-- The bytes stored never pass the in limit (R67). -/
theorem Engine.Carrying.keep {e : Engine} (h : e.Carrying) : e.keep.Carrying := by
  obtain ⟨hw, hsel, hread, hv, hn, hu, hheld, hfits⟩ := h
  have hroom := e.copies_le_room
  have hkeep : e.bytesIn + e.copies ≤ e.message.inLimit := by
    unfold Engine.room at hroom
    omega
  exact ⟨hw, hsel, hread, hv, hn, hu, hheld, hkeep⟩

/-- An offer that is taken (R56). -/
theorem Engine.Offering.legal_take {e : Engine} (h : e.Offering) (c : BayConfig) (rep : Option Nat) :
    (e.take c .taken rep).Legal := by
  obtain ⟨⟨hs, hsilent, hrev, -, htt⟩, hc, ⟨-, hack, hrevack⟩, hend⟩ := h
  exact Engine.Reverses.legal hc ⟨hs, hsilent, hrev, ⟨rfl, htt⟩⟩ (.inr (.inl ⟨rfl, hack, rfl, hrevack, hend⟩))

/-- The module's END, which fixes the ending DONE (R63). -/
theorem Engine.Offering.legal_takeEnd {e : Engine} (h : e.Offering) (c : BayConfig) :
    ((e.take c .takenEnd none).fix .done).1.Legal := by
  obtain ⟨⟨hs, hsilent, hrev, -, htt⟩, hc, ⟨-, hack, -⟩, hend⟩ := h
  rw [Engine.fix_record]
  refine Engine.Reverses.legal hc ⟨hs, hsilent, hrev, ⟨rfl, htt⟩⟩ (.inr (.inr ⟨rfl, hack, rfl, ?_⟩))
  simp [endingAfter, Engine.take, hend]

theorem Engine.Offering.keep {e : Engine} (h : e.Offering) : e.keep.Offering := by
  obtain ⟨⟨hs, hsilent, hrev, htimers⟩, hc, hoffer, hend⟩ := h
  exact ⟨⟨hs, hsilent, hrev, htimers⟩, hc.keep, hoffer, hend⟩

/-- The offered byte taken or refused, by what it is (R59, R63, R66, R67). -/
theorem Engine.Offering.legal_examine {e : Engine} (h : e.Offering) (c : BayConfig) : (e.examine c).1.Legal := by
  unfold Engine.examine
  split
  · split
    · exact e.legal_refuse c _ h.carrying h.silent
    · split
      · exact h.legal_takeEnd c
      · split
        · exact h.legal_take c _
        · exact e.legal_refuse c _ h.carrying h.silent
  · split
    · exact h.keep.legal_take c none
    · exact e.keep.legal_refuse c _ h.keep.carrying h.keep.silent

/-- A legal record has no offer before it. -/
theorem Engine.Legal.not_offered {e : Engine} (h : e.Legal) : e.offered = false := by
  obtain ⟨-, -, ⟨-, -, -, hlow, -⟩, -⟩ := h
  by_cases hk : e.handshake = .offer
  · exact e.offered_of_ack (hlow (.inr hk))
  · exact e.offered_of_handshake hk

theorem State.storeOffer_engine (s : State) : s.storeOffer.engine = s.engine := by
  unfold State.storeOffer
  split <;> rfl

theorem State.takeOffer_legal (s : State) (h : s.engine.Legal ∨ s.engine.Offering) : s.takeOffer.engine.Legal := by
  rcases h with h | h
  · rwa [s.takeOffer_none h.not_offered]
  · have ho : s.engine.offered = true := by
      obtain ⟨⟨⟨hs, -⟩, -⟩, -, ⟨hk, hack, -⟩, -⟩ := h
      simp [Engine.offered, hs, hk, hack]
    rw [State.takeOffer, if_pos ho, State.runEngine_engine, s.storeOffer_engine]
    exact h.legal_examine _

/-! ## Edges of the module's lines -/

theorem Engine.Forwards.sends {e : Engine} (h : e.Forwards) : e.Sends := by
  obtain ⟨i, -, ⟨hs, -⟩ | ⟨hs, ha⟩ | ⟨hs, ha, -⟩⟩ := h.item
  · exact .inl hs
  · exact .inr ⟨hs, by simp [ha]⟩
  · exact .inr ⟨hs, by simp [ha]⟩

theorem Engine.Forwards.state {e : Engine} (h : e.Forwards) : e.state = .forward ∨ e.state = .aborting :=
  h.sends.imp id And.left

theorem Engine.AwaitsLines.waits {e : Engine} (h : e.AwaitsLines) : ∃ x, e.Waits x := by
  rcases h.state with ⟨hs, -, -⟩ | ⟨hs, ha⟩
  · exact ⟨_, .inl ⟨hs, rfl⟩⟩
  · exact ⟨_, .inr ⟨hs, ha, rfl⟩⟩

theorem Engine.AwaitsLines.state_ne {e : Engine} (h : e.AwaitsLines) : e.state ≠ .idle ∧ e.state ≠ .turning := by
  rcases h.state with ⟨hs, -⟩ | ⟨hs, -⟩ <;> simp [hs]

/-- MB_ACK has risen: the record is legal, or an offer stands before it (R55, R56, R75). -/
theorem Engine.Legal.ackRise {e : Engine} (h : e.Legal) (ha : e.ack = false) (lines : BusByte) :
    (e.ackUp lines).ackRise.1.Legal ∨ (e.ackUp lines).ackRise.1.Offering := by
  cases e.legal_iff_phase.mp h with
  | rests h =>
    rcases h.watch with ⟨hs, -⟩ | ⟨hs, -⟩
    · rw [(e.ackUp lines).ackRise_idle hs]
      exact .inl (Engine.Unselected.legal_watch h.unselected)
    · have hmoves : (e.ackUp lines).ackRise = (e.ackUp lines, []) := by
        apply Engine.ackRise_elsewhere <;> simp [Engine.ackUp, hs]
      rw [hmoves]
      exact .inl (Engine.Resting.legal ⟨h.unselected, .inr ⟨hs, .inl rfl⟩⟩)
  | forwards hc h =>
    have hs := h.state
    obtain ⟨hr, htt, hend, hbt, hd, hi, ⟨-, hack, -⟩ | ⟨hk, -⟩ | ⟨-, hack, -⟩⟩ := h
    · simp [ha] at hack
    · rw [(e.ackUp lines).ackRise_strobed hs hk]
      exact .inl (Engine.Forwards.legal hc ⟨hr, htt, hend, hbt, hd, hi, .inr (.inr ⟨rfl, rfl, rfl⟩)⟩)
    · simp [ha] at hack
  | turns hc h =>
    obtain ⟨hs, hsilent, hl, hk, ht, hend⟩ := h
    have hmoves : (e.ackUp lines).ackRise = (e.ackUp lines, []) := by
      apply Engine.ackRise_elsewhere <;> simp [Engine.ackUp, hs]
    rw [hmoves]
    exact .inl (Engine.Turns.legal hc ⟨hs, hsilent, hl, hk, ht, hend⟩)
  | reverses hc h hb =>
    obtain ⟨hs, hsilent, hr, ht⟩ := h
    have hmoves : (e.ackUp lines).ackRise = (e.ackUp lines, []) := by
      apply Engine.ackRise_elsewhere <;> simp [Engine.ackUp, hs]
    obtain ⟨hk, -, -, hrev, hend⟩ | ⟨-, hack, -⟩ | ⟨-, hack, -⟩ := hb
    · rw [hmoves]
      exact .inr ⟨⟨hs, hsilent, hr, ht⟩, hc, ⟨hk, rfl, hrev⟩, hend⟩
    · simp [ha] at hack
    · simp [ha] at hack
  | awaitsLines hc h =>
    have hmoves : (e.ackUp lines).ackRise = (e.ackUp lines, []) :=
      (e.ackUp lines).ackRise_moves h.state_ne.1 (by simp [Engine.ackUp, h.handshake])
    obtain ⟨hs, hsilent, hl, hk, ht, -⟩ := h
    rw [hmoves]
    exact .inl (Engine.AwaitsLines.legal hc ⟨hs, hsilent, hl, hk, ht, .inl rfl⟩)

/-- MB_REVACK has risen: the record is legal, or the first offer stands before it (R56, R62, R75). -/
theorem Engine.Legal.revackRise {e : Engine} (h : e.Legal) (lines : BusByte) (c : BayConfig) :
    ((e.revackUp lines).revackRise c).1.Legal ∨ ((e.revackUp lines).revackRise c).1.Offering := by
  cases e.legal_iff_phase.mp h with
  | rests h =>
    rcases h.watch with ⟨hs, -⟩ | ⟨hs, -⟩
    · rw [(e.revackUp lines).revackRise_idle c hs]
      exact .inl (Engine.Unselected.legal_watch h.unselected)
    · rw [(e.revackUp lines).revackRise_moves c (by simp [Engine.revackUp, hs]) (by simp [Engine.revackUp, hs])]
      exact .inl (Engine.Resting.legal ⟨h.unselected, .inr ⟨hs, .inr rfl⟩⟩)
  | forwards hc h =>
    have hs : e.state ≠ .idle ∧ e.state ≠ .turning := by rcases h.state with hs | hs <;> simp [hs]
    obtain ⟨hr, htt, hend, hbt, hd, hi, hedge⟩ := h
    rw [(e.revackUp lines).revackRise_moves c hs.1 hs.2]
    exact .inl (Engine.Forwards.legal hc ⟨hr, htt, hend, hbt, hd, hi, hedge⟩)
  | turns hc h =>
    obtain ⟨⟨hs, ha⟩, hsilent, ⟨hr, hstb, -⟩, -, -, hend⟩ := h
    rw [(e.revackUp lines).revackRise_turning c hs]
    have hrev : ((e.revackUp lines).enterReverse c).Reverses := ⟨⟨rfl, ha⟩, hsilent, hr, ⟨rfl, rfl⟩⟩
    cases hack : e.ack
    · exact .inl (hrev.legal hc (.inl ⟨rfl, hack, hstb, rfl, hend⟩))
    · exact .inr ⟨hrev, hc, ⟨rfl, hack, rfl⟩, hend⟩
  | reverses hc h hb =>
    obtain ⟨⟨hs, ha⟩, hsilent, hr, ht⟩ := h
    rw [(e.revackUp lines).revackRise_moves c (by simp [Engine.revackUp, hs]) (by simp [Engine.revackUp, hs])]
    refine .inl (Engine.Reverses.legal hc ⟨⟨hs, ha⟩, hsilent, hr, ht⟩ ?_)
    obtain ⟨hk, hack, hstb, -, hend⟩ | ⟨hk, hack, hstb, -, hend⟩ | h := hb
    · exact .inl ⟨hk, hack, hstb, rfl, hend⟩
    · exact .inr (.inl ⟨hk, hack, hstb, rfl, hend⟩)
    · exact .inr (.inr h)
  | awaitsLines hc h =>
    rw [(e.revackUp lines).revackRise_moves c h.state_ne.1 h.state_ne.2]
    obtain ⟨hs, hsilent, hl, hk, ht, -⟩ := h
    exact .inl (Engine.AwaitsLines.legal hc ⟨hs, hsilent, hl, hk, ht, .inr rfl⟩)

/-- MB_REV is raised, and MB_REVACK already high begins REVERSE (R62). -/
theorem Engine.legal_enterTurning (e : Engine) (c : BayConfig) (hc : e.Carrying) (ha : e.abortStep = none)
    (hend : e.ending = none) (hack : e.ack = false) : (e.enterTurning c).Legal := by
  simp only [Engine.enterTurning]
  split
  · next hrev =>
    exact Engine.Reverses.legal hc ⟨⟨rfl, ha⟩, ⟨rfl, rfl⟩, rfl, ⟨rfl, rfl⟩⟩ (.inl ⟨rfl, hack, rfl, hrev, hend⟩)
  · next hrev =>
    exact Engine.Turns.legal hc ⟨⟨rfl, ha⟩, ⟨rfl, rfl⟩, ⟨rfl, rfl, by simpa using hrev⟩, rfl, ⟨rfl, rfl⟩, hend⟩

/-- The last edge of a byte of a message (R61), or of the ABORT byte (R71). -/
theorem Engine.legal_itemDone (e : Engine) (c : BayConfig) (hc : e.Carrying) (hr : e.rev = false)
    (ht : e.turnTimer = none) (hend : e.ending = none) (hack : e.ack = false) {i : ForwardItem} (hi : e.item = some i)
    (hs : e.state = .forward ∧ e.abortStep = none ∨ i = .abort) : (e.itemDone c).1.Legal := by
  have next {u : Engine} (hu : u.Carrying) (hur : u.rev = false) (hut : u.turnTimer = none) (hue : u.ending = none)
      (hus : u.state = .forward ∧ u.abortStep = none) (j : ForwardItem) : (u.startItem c j).Legal :=
    u.legal_startItem c j hu hur hut hue (.inl hus)
  cases i with
  | abort =>
    simp only [Engine.itemDone, hi]
    exact e.legal_finish _ hc.fits
  | channel =>
    simp only [Engine.itemDone, hi]
    exact next hc hr ht hend (hs.resolve_right nofun) _
  | repeatCount n =>
    simp only [Engine.itemDone, hi]
    exact next hc hr ht hend (hs.resolve_right nofun) _
  | data n =>
    simp only [Engine.itemDone, hi]
    exact next (u := e.advanceData n) hc hr ht hend (hs.resolve_right nofun) _
  | endMark =>
    simp only [Engine.itemDone, hi]
    split
    · exact e.legal_enterTurning c hc (hs.resolve_right nofun).2 hend hack
    · exact e.legal_finish _ hc.fits

/-- MB_ACK has fallen on a forward byte (R55, R61, R71). -/
theorem Engine.Forwards.legal_forwardFall {e : Engine} (hc : e.Carrying) (h : e.Forwards) (c : BayConfig) :
    (e.ackDown.forwardFall c).1.Legal := by
  obtain ⟨hr, htt, hend, hbt, hd, ⟨i, hi, hsend⟩, hedge⟩ := h
  have carried : e.ackDown.Carrying := hc
  rcases hedge with ⟨hk, -⟩ | ⟨hk, hack, hstb⟩ | ⟨hk, -, hstb⟩
  · rw [e.ackDown.forwardFall_due c hk]
    exact Engine.Forwards.legal hc ⟨hr, htt, hend, hbt, hd, ⟨i, hi, hsend⟩, .inr (.inl ⟨rfl, rfl, rfl⟩)⟩
  · have hstays : e.ackDown.forwardFall c = (e.ackDown, []) := by simp [Engine.forwardFall, Engine.ackDown, hk]
    rw [hstays]
    exact Engine.Forwards.legal hc ⟨hr, htt, hend, hbt, hd, ⟨i, hi, hsend⟩, .inr (.inl ⟨hk, rfl, hstb⟩)⟩
  · rcases hsend with ⟨hs, ha⟩ | ⟨hs, ha⟩ | ⟨hs, ha, rfl⟩
    · rw [e.ackDown.forwardFall_acked c hk (by simp [Engine.ackDown, ha])]
      exact Engine.legal_itemDone _ c carried hr htt hend rfl hi (.inl ⟨hs, ha⟩)
    · rw [e.ackDown.forwardFall_finishByte c hk ha]
      have due (u : Engine) (hu : u.Carrying) (hur : u.rev = false) (hut : u.turnTimer = none)
          (hue : u.ending = none) : (u.sendAbort c).Legal :=
        Engine.legal_startItem _ c .abort hu hur hut hue (.inr (.inr ⟨rfl, rfl, rfl⟩))
      unfold Engine.finishByte
      split
      · next n _ => exact due (e.ackDown.advanceData n) hc hr htt hend
      · exact due e.ackDown hc hr htt hend
    · rw [e.ackDown.forwardFall_acked c hk (by simp [Engine.ackDown, ha])]
      exact Engine.legal_itemDone _ c carried hr htt hend rfl hi (.inr rfl)

/-- MB_ACK has fallen (R55, R56, R63, R64, R72, R77). -/
theorem Engine.Legal.ackFall {e : Engine} (h : e.Legal) (ha : e.ack = true) (c : BayConfig) :
    (e.ackDown.ackFall c).1.Legal := by
  cases e.legal_iff_phase.mp h with
  | rests h =>
    rcases h.watch with ⟨-, hack, -⟩ | ⟨hs, -⟩
    · simp [ha] at hack
    · rw [e.ackDown.ackFall_held c hs]
      exact Engine.Unselected.legal_leaveHeld h.unselected hs
  | forwards hc h =>
    rw [e.ackDown.ackFall_sends c h.sends]
    exact h.legal_forwardFall hc c
  | turns hc h =>
    obtain ⟨⟨hs, hst⟩, hsilent, hl, hk, ht, hend⟩ := h
    rw [e.ackDown.ackFall_turning c hs]
    exact Engine.Turns.legal hc ⟨⟨hs, hst⟩, hsilent, hl, hk, ht, hend⟩
  | reverses hc h hb =>
    obtain ⟨⟨hs, hst⟩, hsilent, hr, -, htt⟩ := h
    rw [e.ackDown.ackFall_reverse c hs]
    rcases hb with ⟨-, hack, -⟩ | ⟨hk, -, -, hrev, hend⟩ | ⟨hk, -, -, hend⟩
    · simp [ha] at hack
    · rw [e.ackDown.reverseFall_taken c hk]
      exact Engine.Reverses.legal hc ⟨⟨hs, hst⟩, hsilent, hr, ⟨rfl, htt⟩⟩ (.inl ⟨rfl, rfl, rfl, hrev, hend⟩)
    · rw [e.ackDown.reverseFall_takenEnd c hk]
      exact Engine.legal_turnBack _ c hc hsilent hst hend
  | awaitsLines hc h =>
    obtain ⟨x, hx⟩ := h.waits
    obtain ⟨hs, hsilent, hl, hk, ht, -⟩ := h
    rw [e.ackDown.ackFall_waits c hx]
    exact Engine.legal_releaseIfLow _ _ hc fun hhigh => ⟨hs, hsilent, hl, hk, ht, hhigh⟩

/-- MB_REVACK has fallen (R59, R64, R72, R77). -/
theorem Engine.Legal.revackFall {e : Engine} (h : e.Legal) (ha : e.revack = true) (c : BayConfig) :
    (e.revackDown.revackFall c).1.Legal := by
  cases e.legal_iff_phase.mp h with
  | rests h =>
    rcases h.watch with ⟨-, -, hrev, -⟩ | ⟨hs, -⟩
    · simp [ha] at hrev
    · rw [e.revackDown.revackFall_held c hs]
      exact Engine.Unselected.legal_leaveHeld h.unselected hs
  | forwards hc h =>
    rw [e.revackDown.revackFall_sends c h.sends]
    obtain ⟨hr, htt, hend, hbt, hd, hi, hedge⟩ := h
    exact Engine.Forwards.legal hc ⟨hr, htt, hend, hbt, hd, hi, hedge⟩
  | turns hc h =>
    obtain ⟨-, -, ⟨-, -, hrev⟩, -⟩ := h
    simp [ha] at hrev
  | reverses hc h hb =>
    obtain ⟨⟨hs, hst⟩, hsilent, hr, ht⟩ := h
    rw [e.revackDown.revackFall_reverse c hs]
    split
    · next hk =>
      obtain ⟨hk', -⟩ | ⟨hk', -⟩ | hb := hb
      · cases hk.symm.trans hk'
      · cases hk.symm.trans hk'
      · exact Engine.Reverses.legal hc ⟨⟨hs, hst⟩, hsilent, hr, ht⟩ (.inr (.inr hb))
    · exact Engine.legal_refuse _ c _ hc hsilent
  | awaitsLines hc h =>
    obtain ⟨x, hx⟩ := h.waits
    obtain ⟨hs, hsilent, hl, hk, ht, -⟩ := h
    rw [e.revackDown.revackFall_waits c hx]
    exact Engine.legal_releaseIfLow _ _ hc fun hhigh => ⟨hs, hsilent, hl, hk, ht, hhigh⟩

/-! ## Timers, abort and abandon, reset -/

theorem Engine.Legal.fits {e : Engine} (h : e.Legal) : e.bytesIn ≤ e.message.inLimit := by
  obtain ⟨-, -, -, -, -, -, -, hfits⟩ := h
  exact hfits

theorem Engine.Legal.byteExpiry {e : Engine} (h : e.Legal) (c : BayConfig) : (e.byteExpiry c).1.Legal := by
  unfold Engine.byteExpiry
  split
  · exact e.legal_finish _ h.fits
  · next hs =>
    split
    · next hk =>
      obtain ⟨hrev, hb⟩ := h.reverses hs
      obtain ⟨hk', -⟩ | ⟨hk', -⟩ | ⟨-, -, -, hend⟩ := hb
      · cases hk.symm.trans hk'
      · cases hk.symm.trans hk'
      · exact e.legal_turnBack c (h.carrying (by simp [hs]) (by simp [hs])) hrev.silent hrev.state.2 hend
    · exact e.legal_finish _ h.fits
  · next hs =>
    split
    · next ha =>
      have hforwards := h.forwards (.inr ⟨hs, by simp [ha]⟩)
      exact hforwards.legal_sendAbort (h.carrying (by simp [hs]) (by simp [hs])) c
    · exact e.legal_finish _ h.fits
  all_goals exact h

theorem Engine.Legal.turnExpiry {e : Engine} (h : e.Legal) : e.turnExpiry.1.Legal := by
  unfold Engine.turnExpiry
  split
  case h_1 | h_2 | h_3 => exact e.legal_finish _ h.fits
  all_goals exact h

/-- The held timer is no more than allowed in HELD (R76). -/
theorem Engine.Legal.heldExpiry {e : Engine} (h : e.Legal) : e.heldExpiry.1.Legal := by
  obtain ⟨hsel, hlines, hhand, ⟨hbyte, hturn, -⟩, hcounts⟩ := h
  exact ⟨hsel, hlines, hhand, ⟨hbyte, hturn, nofun⟩, hcounts⟩

/-- An abort request, by the engine state (R70). -/
theorem Engine.Legal.abort {e : Engine} (h : e.Legal) (c : BayConfig) (w : Work) : (e.abort c w).1.Legal := by
  unfold Engine.abort
  split
  · split
    · next hs =>
      have hc := h.carrying (by simp [hs]) (by simp [hs])
      have hforwards := h.forwards (.inl hs)
      split
      · exact hforwards.legal_sendAbort hc c
      · obtain ⟨hr, htt, hend, hbt, hd, ⟨i, hi, -⟩, hedge⟩ := hforwards
        exact Engine.Forwards.legal hc ⟨hr, htt, hend, hbt, hd, ⟨i, hi, .inr (.inl ⟨rfl, rfl⟩)⟩, hedge⟩
    · next hs => exact e.legal_waitLines c (h.carrying (by simp [hs]) (by simp [hs])) (h.turns hs).silent
    · next hs => exact e.legal_waitLines c (h.carrying (by simp [hs]) (by simp [hs])) (h.reverses hs).1.silent
    all_goals exact h
  · exact h

theorem Engine.Legal.abandon {e : Engine} (h : e.Legal) (w : Work) : (e.abandon w).1.Legal := by
  unfold Engine.abandon
  split
  · exact e.legal_finish _ h.fits
  · exact h

theorem Engine.legal_hardwareReset (e : Engine) : e.hardwareReset.1.Legal :=
  Engine.Unselected.legal_watch
    ⟨⟨rfl, rfl, rfl, rfl⟩, ⟨rfl, rfl⟩, ⟨rfl, rfl⟩, ⟨rfl, rfl⟩, ⟨rfl, rfl⟩, Nat.le_refl 0⟩

/-- The passing of 10 µs starts and stops no timer of the engine (R57, R62, R75). -/
theorem Engine.Legal.tick {e : Engine} (h : e.Legal) : e.tick.Legal := by
  obtain ⟨hsel, hlines, hhand, ⟨hbyte, hturn, hheld⟩, hcounts⟩ := h
  exact ⟨hsel, hlines, hhand, ⟨(tick_running _).trans hbyte, (tick_running _).trans hturn,
    fun ht => hheld ((tick_running _).mp ht)⟩, hcounts⟩

end Sys2Proof.Machine
end

section
/-! PROOFS. Which operations leave the engine record as it was, and that every command, and so every step, keeps it
legal (R52 to R57, R60, R67, R74, R75; assumption logs 9, 14). -/

namespace Sys2Proof.Machine

open Sys2Proof.Claims

/-! ## Operations that leave the engine as it was -/

@[simp] theorem State.unstall_engine (s : State) : s.unstall.engine = s.engine := by
  unfold State.unstall; split <;> rfl

@[simp] theorem State.takeFrame_engine (s : State) (f : Frame) : (s.takeFrame f).engine = s.engine := by
  simp [State.takeFrame]

/-- A frame that settles before step 7 of R154 reaches no engine. -/
theorem State.settled?_engine (s t : State) (f : Frame) (h : s.settled? f = some t) : t.engine = s.engine := by
  unfold State.settled? at h
  split at h
  · cases h; rfl
  · split at h
    · cases h; rfl
    · obtain ⟨r, -, rfl⟩ := Option.map_eq_some_iff.mp h
      rfl

@[simp] theorem State.answer_engine (s : State) (f r : Frame) : (s.answer f r).engine = s.engine := rfl

/-- A session end asks for aborts, and leaves the bus as it is (R53, R112). -/
@[simp] theorem State.endSession_engine (s : State) (kept : List QueuedReply) :
    (s.endSession kept).engine = s.engine :=
  (congrArg State.engine (s.endSession_spec kept).1 :)

@[simp] theorem State.startSession_engine (s : State) (nonce : Word16) : (s.startSession nonce).engine = s.engine :=
  (congrArg State.engine (s.startSession_spec nonce).1 :)

@[simp] theorem State.requestEnd_engine (s : State) (f : Frame) (restart : Bool) :
    (s.requestEnd f restart).engine = s.engine := by
  simp only [State.requestEnd]
  split
  · next t h => exact (State.settled?_engine _ _ _ h).trans (by simp)
  · split <;> simp

@[simp] theorem State.requestUnknown_engine (s : State) (f : Frame) : (s.requestUnknown f).engine = s.engine := by
  simp only [State.requestUnknown]
  split
  · next t h => exact (State.settled?_engine _ _ _ h).trans (by simp)
  · split <;> simp

@[simp] theorem State.answerOpen_engine (s : State) (f : Frame) : (s.answerOpen f).engine = s.engine := rfl

@[simp] theorem State.requestOpen_engine (s : State) (f : Frame) : (s.requestOpen f).engine = s.engine := by
  have queued : ∀ (u : State) (r : Frame), (u.queueReply r false).engine = u.engine := fun _ _ => rfl
  have dropped : ∀ u : State, u.dropFrame.engine = u.engine := fun _ => rfl
  simp only [State.requestOpen]
  repeat' split
  all_goals simp [queued, dropped]

theorem State.noticesRemoved_engine (l : List Unacked) :
    ∀ s : State, (l.foldl (fun t u => t.noticeRemoved u.notice) s).engine = s.engine := by
  induction l with
  | nil => exact fun s => rfl
  | cons u l ih =>
    intro s
    refine (ih (s.noticeRemoved u.notice)).trans ?_
    cases u.notice with
    | jobDone j => rfl
    | event n => simp [State.noticeRemoved]

@[simp] theorem State.takeAck_engine (s : State) (n : Byte) : (s.takeAck n).engine = s.engine := by
  unfold State.takeAck
  split
  · exact State.noticesRemoved_engine _ _
  · rfl

@[simp] theorem State.requestAck_engine (s : State) (f : Frame) : (s.requestAck f).engine = s.engine := by
  have stale : ∀ u : State, u.staleAck.engine = u.engine := fun _ => rfl
  simp only [State.requestAck]
  split
  · simp
  · split <;> simp [stale]

@[simp] theorem State.ackExpired_engine (s : State) : s.ackExpired.engine = s.engine := by
  unfold State.ackExpired; simp only; split <;> rfl

@[simp] theorem State.noticeEnded_engine (s : State) : s.noticeEnded.engine = s.engine := by
  unfold State.noticeEnded; split <;> rfl

@[simp] theorem State.clearEvents_engine (s : State) (n : SourceNo) (mask : Byte) :
    (s.clearEvents n mask).engine = s.engine := by
  have cleared : (s.clearBits n mask).engine = s.engine := rfl
  unfold State.clearEvents State.serviceAgain
  split <;> simp [cleared]

theorem State.clearCounters_engine (s : State) (n : SourceNo) : (s.clearCounters n).engine = s.engine := by
  unfold State.clearCounters
  split <;> rfl

@[simp] theorem State.takeJobEnding_engine (s : State) (j : SlotNo) (x : Ending) (o n : Nat) :
    (s.takeJobEnding j x o n).engine = s.engine := by
  unfold State.takeJobEnding
  split
  · dsimp only; split <;> simp
  · rfl

/-! ## A state whose engine is legal -/

/-- The engine record is legal (Engine.Legal). -/
def State.EngineLegal (s : State) : Prop := s.engine.Legal

theorem State.EngineLegal.of_engine {s t : State} (h : s.EngineLegal) (e : t.engine = s.engine) : t.EngineLegal := by
  unfold State.EngineLegal
  rwa [e]

theorem State.EngineLegal.fillLine {s : State} (h : s.EngineLegal) : s.fillLine.EngineLegal := h.of_engine (by simp)

theorem State.EngineLegal.actBay {s : State} (h : s.EngineLegal) (b : BayNo) (f : Bay → Bay × Byte) :
    (s.actBay b f).EngineLegal := h.of_engine (by simp)

theorem State.EngineLegal.setBay {s : State} (h : s.EngineLegal) (b : BayNo) (r : Bay) : (s.setBay b r).EngineLegal :=
  h

theorem State.EngineLegal.ite {s t : State} (hs : s.EngineLegal) {p : Prop} [Decidable p] (ht : p → t.EngineLegal) :
    (if p then t else s).EngineLegal := by
  split
  · next hp => exact ht hp
  · exact hs

/-- A report taken changes the engine as the receiver's action does. -/
theorem State.EngineLegal.takeReport {s : State} (h : s.EngineLegal) {α : Type} {sel : Report → Option α}
    {act : α → State → State} (hact : ∀ (a : α) (t : State), t.EngineLegal → (act a t).EngineLegal) :
    (s.takeReport sel act).EngineLegal := by
  unfold State.takeReport
  split
  · exact h
  · exact hact _ _ (h.of_engine rfl)

/-- The request keeps the engine legal where its service does. -/
theorem State.EngineLegal.request {s : State} (h : s.EngineLegal) {f : Frame} {good : Bool} {serve : State → Served}
    (hserve : ∀ t : State, t.EngineLegal → (serve t).1.EngineLegal) :
    (s.request f good serve).fillLine.EngineLegal := by
  refine State.EngineLegal.fillLine ?_
  have h1 : (s.takeFrame f).EngineLegal := h.of_engine (by simp)
  simp only [State.request]
  split
  · next t ht => exact h1.of_engine (State.settled?_engine _ _ _ ht)
  · split
    · exact (hserve _ h1).of_engine (by simp)
    · exact h1.of_engine (by simp)

theorem State.EngineLegal.forBay {s : State} (h : s.EngineLegal) {byte : Byte} {serve : BayNo → Served}
    (hserve : ∀ b, (serve b).1.EngineLegal) : (s.forBay byte serve).1.EngineLegal := by
  unfold State.forBay
  split
  · exact hserve _
  · exact h

/-! ## Work taken off the bus -/

theorem State.EngineLegal.abandon {s : State} (h : s.EngineLegal) (w : Work) : (s.abandon w).EngineLegal :=
  Engine.Legal.abandon h w

theorem State.EngineLegal.disposeJob {s : State} (h : s.EngineLegal) (j : SlotNo) (i : BayInstruction) :
    (s.disposeJob j i).EngineLegal := by
  have marked : (s.setSlot j ((s.slot j).marked i.mark)).EngineLegal := h
  unfold State.disposeJob
  split
  · exact h
  · exact h.ite fun _ => marked.of_engine rfl
  · exact marked.abandon _

theorem State.EngineLegal.instruct {s : State} (h : s.EngineLegal) (b : BayNo) (i : BayInstruction) :
    (s.instruct b i).EngineLegal := by
  have ended : (s.endQueue b i.status).EngineLegal := h.of_engine (by simp)
  simp only [State.instruct]
  split
  · next j _ => exact (ended.disposeJob j i).of_engine (by simp)
  · exact ended.of_engine (by simp)

theorem State.EngineLegal.leaveRead {s : State} (h : s.EngineLegal) (b : BayNo) (d : Disposal) :
    (s.leaveRead b d).EngineLegal := by
  have staged (x : ReadStage) : (s.setRead b x).EngineLegal := h.of_engine (by simp)
  unfold State.leaveRead
  split
  case h_1 => exact staged _
  case h_2 => exact (staged .leaving).of_engine rfl
  case h_3 | h_4 => exact (staged _).abandon _
  all_goals exact h

/-- A transition takes the bay's work away: what is on the bus is abandoned, or runs on (R11, R73, R86). -/
theorem State.EngineLegal.takeWork {s : State} (h : s.EngineLegal) (b : BayNo) (i : BayInstruction) :
    (s.takeWork b i).EngineLegal := (h.instruct b i).leaveRead b _

theorem State.EngineLegal.faultBay {s : State} (h : s.EngineLegal) (b : BayNo) (k : FaultCause) :
    (s.faultBay b k).EngineLegal := (h.takeWork b .bayFault).of_engine (s.faultBay_rest b k).1

theorem State.EngineLegal.busFault {s : State} (h : s.EngineLegal) (b : BayNo) : (s.busFault b).EngineLegal := by
  unfold State.busFault
  split
  · exact h
  · exact h.faultBay b .bus

theorem State.EngineLegal.testPower {s : State} (h : s.EngineLegal) (b : BayNo) : (s.testPower b).EngineLegal :=
  h.ite fun _ => h.faultBay b .power

theorem State.EngineLegal.enterPowering {s : State} (h : s.EngineLegal) (b : BayNo) (o : Origin) :
    (s.enterPowering b o).EngineLegal := by
  have entered := h.setBay b (((s.bay b).accept .powerOn o).ramp (s.bayConfig b))
  simp only [State.enterPowering]
  split
  · exact entered.faultBay b .power
  · exact entered.ite fun _ => entered.setBay b _

theorem State.EngineLegal.powerOff {s : State} (h : s.EngineLegal) (b : BayNo) (o : Origin) :
    (s.powerOff b o).EngineLegal := (h.takeWork b _).actBay b _

theorem State.EngineLegal.latchOpened {s : State} (h : s.EngineLegal) (b : BayNo) : (s.latchOpened b).EngineLegal := by
  unfold State.latchOpened
  split <;> exact (h.takeWork b _).actBay b _

theorem State.EngineLegal.holdOffExpired {s : State} (h : s.EngineLegal) (b : BayNo) (x : HoldOffTarget) :
    (s.holdOffExpired b x).EngineLegal := by
  have ended := h.setBay b (s.bay b).endHoldOff
  cases x with
  | off => exact ended.ite fun _ => ended.powerOff b .button
  | on => exact ended.ite fun _ => ended.enterPowering b .button

/-! ## Reports, grants, time and reset -/

theorem State.EngineLegal.account {s : State} (h : s.EngineLegal) (b : BayNo) (x : Ending) :
    (s.account b x).EngineLegal := by
  simp only [State.account]
  split
  · exact (h.setBay b _).busFault b
  · exact h.setBay b _

theorem State.EngineLegal.takeReadEnding {s : State} (h : s.EngineLegal) (b : BayNo) (x : ReadEnding) :
    (s.takeReadEnding b x).EngineLegal := by
  have counted : (s.countTimeout b x.ending).EngineLegal := h.of_engine (by simp)
  have gone : ((s.countTimeout b x.ending).setRead b .noRead).EngineLegal := counted.of_engine (by simp)
  refine counted.ite fun _ => ?_
  unfold State.takeOutcome
  split
  · exact gone.actBay b _
  · exact gone.faultBay b .identity

/-- A selection is legal whatever the engine was: its work is the bay's own read, or a job (R54). -/
theorem State.engineLegal_selectWork (s : State) (w : Work) (b : BayNo) (m : Message)
    (hw : ∀ i, w = .identity i → i = b) : (s.selectWork w b m).EngineLegal := Engine.legal_select _ _ w b m hw

theorem State.EngineLegal.grant {s : State} (h : s.EngineLegal) : s.grant.EngineLegal := by
  unfold State.grant
  split
  · split
    · exact State.engineLegal_selectWork _ _ _ _ fun i hi => (Work.identity.inj hi).symm
    · exact State.engineLegal_selectWork _ _ _ _ nofun
    · exact h
  · exact h

theorem State.EngineLegal.idle {s : State} (h : s.EngineLegal) : s.idle.EngineLegal := by
  unfold State.idle
  split
  · exact h
  · split
    · exact h
    · split
      · exact h
      · split
        · exact h
        · exact Engine.Legal.tick h

/-- After a hardware reset the engine is legal whatever it was before (R53, R60). -/
theorem State.engineLegal_hardwareReset (s : State) (cause : ResetCause) (straps : BitVec 2) :
    (s.hardwareReset cause straps).EngineLegal := s.engine.legal_hardwareReset

theorem State.EngineLegal.frameSent {s : State} (h : s.EngineLegal) :
    ∃ t, exec .frameSent s = .next t ∧ t.EngineLegal := by
  refine ⟨_, rfl, ?_⟩
  split
  · simp only [State.frameEnded]
    split
    · exact State.engineLegal_hardwareReset _ _ _
    · split <;> exact h.of_engine (by simp)
  · exact h.of_engine (by simp)

/-! ## Requests -/

theorem State.EngineLegal.servePowerOn {s : State} (h : s.EngineLegal) (b : BayNo) :
    (s.servePowerOn b).1.EngineLegal := by
  unfold State.servePowerOn
  split
  case h_2 =>
    split
    · exact h.enterPowering b .link
    · exact h
  all_goals exact h

theorem State.EngineLegal.adopt {s : State} (h : s.EngineLegal) (b : BayNo) : (s.adopt b).1.EngineLegal := by
  unfold State.adopt
  split
  · exact h
  · exact h.setBay b _

theorem State.EngineLegal.servePowerOff {s : State} (h : s.EngineLegal) (b : BayNo) :
    (s.servePowerOff b).1.EngineLegal := by
  have superseded : (s.supersede b).EngineLegal := (h.takeWork b _).actBay b _
  unfold State.servePowerOff
  split
  case h_4 | h_5 | h_6 => exact superseded
  case h_7 =>
    dsimp only
    exact h.powerOff b .link
  case h_8 | h_9 => exact h.adopt b
  all_goals exact h

theorem State.EngineLegal.serveResetModule {s : State} (h : s.EngineLegal) (b : BayNo) :
    (s.serveResetModule b).1.EngineLegal := by
  unfold State.serveResetModule
  split
  case h_4 => exact (h.takeWork b .bayReset).setBay b _
  all_goals exact h

theorem State.EngineLegal.serveClearFault {s : State} (h : s.EngineLegal) (b : BayNo) :
    (s.serveClearFault b).1.EngineLegal := by
  unfold State.serveClearFault
  split
  case h_2 =>
    split
    · exact h
    · exact h.setBay b _
  all_goals exact h

theorem State.EngineLegal.serveIndicate {s : State} (h : s.EngineLegal) (p : List Byte) :
    (s.serveIndicate p).1.EngineLegal := by
  refine h.forBay fun b => ?_
  split
  · split
    · exact h.setBay b _
    · exact h
  · exact h

theorem State.EngineLegal.serveSubmit {s : State} (h : s.EngineLegal) (p : List Byte) :
    (s.serveSubmit p).1.EngineLegal := by
  unfold State.serveSubmit
  split
  · exact h
  · split <;> exact h

theorem State.EngineLegal.serveCancel {s : State} (h : s.EngineLegal) (p : List Byte) :
    (s.serveCancel p).1.EngineLegal := by
  unfold State.serveCancel
  split
  · unfold State.cancelSlot
    split
    · exact h.of_engine (by simp)
    · exact h.ite fun _ => h.of_engine rfl
    all_goals exact h
  · exact h

theorem State.EngineLegal.serveJobStatus {s : State} (h : s.EngineLegal) (p : List Byte) :
    (s.serveJobStatus p).1.EngineLegal := by
  unfold State.serveJobStatus
  split <;> exact h

theorem State.EngineLegal.serveClearEvents {s : State} (h : s.EngineLegal) (p : List Byte) :
    (s.serveClearEvents p).1.EngineLegal := by
  unfold State.serveClearEvents
  split
  · split
    · exact h
    · exact h.of_engine (by simp)
  · exact h

theorem State.EngineLegal.serveSetBayConfig {s : State} (h : s.EngineLegal) (p : List Byte) :
    (s.serveSetBayConfig p).1.EngineLegal := by
  unfold State.serveSetBayConfig
  split
  · next bs c _ _ => exact h.of_engine (congrArg State.engine (storeBayConfigs_spec bs c s).1 :)
  · exact h

theorem State.EngineLegal.serveSetLinkConfig {s : State} (h : s.EngineLegal) (p : List Byte) :
    (s.serveSetLinkConfig p).1.EngineLegal := by
  unfold State.serveSetLinkConfig
  split <;> exact h

theorem State.EngineLegal.serveGetCounters {s : State} (h : s.EngineLegal) (p : List Byte) :
    (s.serveGetCounters p).1.EngineLegal := by
  unfold State.serveGetCounters
  split
  · split
    · exact h
    · split
      · exact h.of_engine (s.clearCounters_engine _)
      · exact h
  · exact h

/-! ## The sideband inputs and the timers of a bay -/

theorem State.EngineLegal.latchChange {s : State} (h : s.EngineLegal) (b : BayNo) :
    ∃ t, exec (.latchChange b) s = .next t ∧ t.EngineLegal := by
  refine ⟨_, rfl, h.ite fun _ => ?_⟩
  split
  · exact (h.latchOpened b).fillLine
  · exact h.actBay b _

theorem State.EngineLegal.pgoodRise {s : State} (h : s.EngineLegal) (b : BayNo) :
    ∃ t, exec (.pgoodRise b) s = .next t ∧ t.EngineLegal := by
  refine ⟨_, rfl, ?_⟩
  split
  · exact h
  · exact h.setBay b _

theorem State.EngineLegal.pgoodFall {s : State} (h : s.EngineLegal) (b : BayNo) :
    ∃ t, exec (.pgoodFall b) s = .next t ∧ t.EngineLegal := by
  refine ⟨_, rfl, h.ite fun _ => State.EngineLegal.fillLine ?_⟩
  split
  · exact (h.setBay b _).actBay b _
  · exact (h.setBay b _).testPower b

theorem State.EngineLegal.pfaultAssert {s : State} (h : s.EngineLegal) (b : BayNo) :
    ∃ t, exec (.pfaultAssert b) s = .next t ∧ t.EngineLegal := by
  refine ⟨_, rfl, ?_⟩
  split
  · exact h
  · exact ((h.setBay b _).testPower b).fillLine

theorem State.EngineLegal.holdOffExpiry {s : State} (h : s.EngineLegal) (b : BayNo) :
    ∃ t, exec (.holdOffExpiry b) s = .next t ∧ t.EngineLegal := by
  refine ⟨_, rfl, ?_⟩
  split
  · exact (h.holdOffExpired b _).fillLine
  · exact h

/-! ## The Module Bus -/

theorem State.EngineLegal.mbAckRise {s : State} (h : s.EngineLegal) (lines : BusByte) :
    ∃ t, exec (.mbAckRise lines) s = .next t ∧ t.EngineLegal := by
  cases ha : s.engine.ack
  · exact ⟨_, exec_mbAckRise s lines ha, State.takeOffer_legal _ (Engine.Legal.ackRise h ha lines)⟩
  · exact ⟨s, congrArg Host.Outcome.next (if_pos ha), h⟩

theorem State.EngineLegal.mbRevackRise {s : State} (h : s.EngineLegal) (lines : BusByte) :
    ∃ t, exec (.mbRevackRise lines) s = .next t ∧ t.EngineLegal := by
  cases hr : s.engine.revack
  · exact ⟨_, exec_mbRevackRise s lines hr, State.takeOffer_legal _ (Engine.Legal.revackRise h lines s.busConfig)⟩
  · exact ⟨s, congrArg Host.Outcome.next (if_pos hr), h⟩

/-! ## The whole machine -/

/-- Every command answers a next state, and keeps the engine legal. -/
theorem exec_engineLegal (i : Instr) {s : State} (h : s.EngineLegal) : ∃ t, exec i s = .next t ∧ t.EngineLegal := by
  cases i with
  -- the sideband inputs and the timers of a bay
  | hardwareReset cause straps => exact ⟨_, rfl, s.engineLegal_hardwareReset cause straps⟩
  | sidebandLineEdge b line x => exact ⟨_, rfl, h.setBay b _⟩
  | presenceAssert b => exact ⟨_, rfl, h.ite fun _ => h.actBay b _⟩
  | presenceLoss b => exact ⟨_, rfl, h.ite fun _ => ((h.takeWork b _).actBay b _).fillLine⟩
  | latchChange b => exact h.latchChange b
  | attentionPress b =>
    have counted : (s.setBayCounters b (s.bayCounters b).press).EngineLegal := h
    exact ⟨_, rfl, h.ite fun _ => counted.actBay b _⟩
  | attentionRelease b => exact ⟨_, rfl, h.ite fun _ => h.setBay b _⟩
  | pgoodRise b => exact h.pgoodRise b
  | pgoodFall b => exact h.pgoodFall b
  | pfaultAssert b => exact h.pfaultAssert b
  | pfaultDeassert b => exact ⟨_, rfl, h.setBay b _⟩
  | srqChange b x => exact ⟨_, rfl, h.actBay b _⟩
  | powerUpExpiry b => exact ⟨_, rfl, h.ite fun _ => (h.faultBay b _).fillLine⟩
  | settleExpiryPowering b => exact ⟨_, rfl, h.ite fun _ => h.setBay b _⟩
  | resetPulseExpiry b => exact ⟨_, rfl, h.ite fun _ => h.setBay b _⟩
  | settleExpiryResetting b => exact ⟨_, rfl, h.ite fun _ => h.setBay b _⟩
  | dischargeExpiry b => exact ⟨_, rfl, h.ite fun _ => (h.faultBay b _).fillLine⟩
  | holdOffExpiry b => exact h.holdOffExpiry b
  | blinkToggle => exact ⟨_, rfl, h⟩
  -- requests that a bay serves
  | powerOn seq bay => exact ⟨_, rfl, h.request fun t ht => ht.forBay fun b => ht.servePowerOn b⟩
  | powerOff seq bay => exact ⟨_, rfl, h.request fun t ht => ht.forBay fun b => ht.servePowerOff b⟩
  | resetModule seq bay => exact ⟨_, rfl, h.request fun t ht => ht.forBay fun b => ht.serveResetModule b⟩
  | clearFault seq bay => exact ⟨_, rfl, h.request fun t ht => ht.forBay fun b => ht.serveClearFault b⟩
  | indicate seq p => exact ⟨_, rfl, h.request fun t ht => ht.serveIndicate p⟩
  | bayStatus seq p => exact ⟨_, rfl, h.request fun t ht => ht.forBay fun _ => ht⟩
  | bayIdentity seq p => exact ⟨_, rfl, h.request fun t ht => ht.forBay fun _ => ht⟩
  -- the Bus Arbiter and the Module Bus Engine
  | grant => exact ⟨_, rfl, h.grant⟩
  | mbAckRise lines => exact h.mbAckRise lines
  | mbAckFall => exact ⟨_, rfl, h.ite fun ha => Engine.Legal.ackFall h ha _⟩
  | mbRevackRise lines => exact h.mbRevackRise lines
  | mbRevackFall => exact ⟨_, rfl, h.ite fun hr => Engine.Legal.revackFall h hr _⟩
  | byteTimerExpiry => exact ⟨_, rfl, h.ite fun _ => Engine.Legal.byteExpiry h _⟩
  | turnaroundTimerExpiry => exact ⟨_, rfl, h.ite fun _ => Engine.Legal.turnExpiry h⟩
  | heldTimerExpiry => exact ⟨_, rfl, h.ite fun _ => Engine.Legal.heldExpiry h⟩
  | abortRequest w => exact ⟨_, exec_abortRequest s w, Engine.Legal.abort h _ w⟩
  | abandonRequest w => exact ⟨_, rfl, h.abandon w⟩
  -- reports
  | releaseReport b => exact ⟨_, rfl, h.takeReport fun _ _ ht => ht.actBay b _⟩
  | liveCountReport b => exact ⟨_, rfl, h.takeReport fun _ _ ht => ht.actBay b _⟩
  | timeoutAccountingReport b => exact ⟨_, rfl, h.takeReport fun x _ ht => (ht.account b x).fillLine⟩
  | busFaultReport b => exact ⟨_, rfl, h.takeReport fun _ _ ht => (ht.busFault b).fillLine⟩
  | identityEndingReport b => exact ⟨_, rfl, h.takeReport fun x _ ht => (ht.takeReadEnding b x).fillLine⟩
  | jobEndingReport j => exact ⟨_, rfl, h.takeReport fun _ _ ht => ht.of_engine (by simp)⟩
  | eventRaise n => exact ⟨_, rfl, h.takeReport fun _ _ ht => ht.of_engine (by simp)⟩
  -- jobs, events, configuration and counters
  | deadlineExpiry j => exact ⟨_, rfl, h.ite fun _ => h.of_engine (by simp)⟩
  | submit seq p => exact ⟨_, rfl, h.request fun t ht => ht.serveSubmit p⟩
  | cancel seq p => exact ⟨_, rfl, h.request fun t ht => ht.serveCancel p⟩
  | jobStatus seq p => exact ⟨_, rfl, h.request fun t ht => ht.serveJobStatus p⟩
  | clearEvents seq p => exact ⟨_, rfl, h.request fun t ht => ht.serveClearEvents p⟩
  | setBayConfig seq p => exact ⟨_, rfl, h.request fun t ht => ht.serveSetBayConfig p⟩
  | getBayConfig seq p => exact ⟨_, rfl, h.request fun t ht => ht.forBay fun _ => ht⟩
  | setLinkConfig seq p => exact ⟨_, rfl, h.request fun t ht => ht.serveSetLinkConfig p⟩
  | getLinkConfig seq p => exact ⟨_, rfl, h.request fun t ht => ht⟩
  | getCounters seq p => exact ⟨_, rfl, h.request fun t ht => ht.serveGetCounters p⟩
  -- the Carrier Link
  | linkRxByte x => exact ⟨_, rfl, h⟩
  | gapExpiry => exact ⟨_, rfl, h.ite fun _ => h⟩
  | openSession seq p => exact ⟨_, rfl, h.of_engine (by simp)⟩
  | closeSession seq p => exact ⟨_, rfl, h.of_engine (by simp)⟩
  | restart seq p => exact ⟨_, rfl, h.of_engine (by simp)⟩
  | ping seq p => exact ⟨_, rfl, h.request fun t ht => ht⟩
  | ack seq p => exact ⟨_, rfl, h.of_engine (by simp)⟩
  | unknownRequest kind seq p => exact ⟨_, rfl, h.of_engine (by simp)⟩
  | frameSent => exact h.frameSent
  | ackTimerExpiry => exact ⟨_, rfl, h.ite fun _ => h.of_engine (by simp)⟩

/-- Settles O54: what each command and the idle step keep, by the command at the front of the queue. -/
theorem engineStaysLegal : Obligations.EngineStaysLegal := by
  intro s t h hstep
  unfold step at hstep
  split at hstep
  · next c rest _ =>
    obtain ⟨u, hu, hlegal⟩ := exec_engineLegal c (s := { s with pending := rest }) h
    obtain rfl : u = t := Host.Outcome.next.inj (hu.symm.trans hstep)
    exact hlegal
  · obtain rfl : s.idle = t := Host.Outcome.next.inj hstep
    exact State.EngineLegal.idle h

end Sys2Proof.Machine
end

section
/-! PROOFS. The identity record and its checks (R82, R84, R85). -/

namespace Sys2Proof.Machine

/-- R84 check by check: no identity is read exactly where one of the seven checks fails. -/
theorem identityOf?_eq_none_iff (n : Nat) (l : List Byte) :
    identityOf? n l = none ↔
      n < 8 ∨ 16 < (byteAt l 6).toNat ∨ n ≠ 8 + (byteAt l 6).toNat ∨ byteAt l 0 ≠ 0x01 ∨
        (wordAt l 4).getLsbD 15 = true ∨ wordAt l 4 = 0 ∨ sumBytes (l.take (8 + (byteAt l 6).toNat)) ≠ 0 := by
  simp only [identityOf?, ite_eq_right_iff, reduceCtorEq, imp_false, not_and_or, not_le, Bool.not_eq_false, not_not,
    ne_eq]

/-- Settles O35: a record in R82's layout passes every check and gives back its parts, and each failed check refuses. -/
theorem identityRecordIsChecked : Obligations.IdentityRecordIsChecked := by
  refine ⟨?record_is_read, ?failed_check_refuses⟩
  case record_is_read =>
    intro d check rest hserial hbit hmap record hsum
    exact identityOf?_record d check rest hserial hbit hmap record rfl hsum
  case failed_check_refuses =>
    intro n l hfails
    exact (identityOf?_eq_none_iff n l).mpr hfails

end Sys2Proof.Machine
end

section
/-! PROOFS. What a step can do to the Job Table, said once: a command is a chain of a few kinds of moves of the table, and
every other operation keeps what the laws of the table speak of (R90 to R93, R95, R96, R100, R102, R112, R118). -/

namespace Sys2Proof.Machine

open Sys2Proof.Claims

/-! ## Operations that keep the table -/

/-- The Job Table and its notices stand as they did. Event notices may have come or gone, except with the link DOWN, and
the link may have come up. -/
structure State.TableKept (s t : State) : Prop where
  jobs : t.jobs = s.jobs
  pending : ∀ j, t.transmitter.pending.count (.jobDone j) = s.transmitter.pending.count (.jobDone j)
  unacked : ∀ j, (t.transmitter.unacked.map Unacked.notice).count (.jobDone j) =
    (s.transmitter.unacked.map Unacked.notice).count (.jobDone j)
  down : t.handler.link = .down → s.handler.link = .down ∧
    (s.transmitter.pending = [] → t.transmitter.pending = []) ∧ (s.transmitter.unacked = [] → t.transmitter.unacked = [])

theorem State.TableKept.of_same {s t : State} (hj : t.jobs = s.jobs) (ht : t.transmitter = s.transmitter)
    (hl : t.handler.link = s.handler.link) : s.TableKept t :=
  ⟨hj, fun _ => by rw [ht], fun _ => by rw [ht], fun h => ⟨hl ▸ h, by simp [ht], by simp [ht]⟩⟩

theorem State.TableKept.refl (s : State) : s.TableKept s := .of_same rfl rfl rfl

theorem State.TableKept.trans {s t u : State} (h : s.TableKept t) (h' : t.TableKept u) : s.TableKept u where
  jobs := h'.jobs.trans h.jobs
  pending j := (h'.pending j).trans (h.pending j)
  unacked j := (h'.unacked j).trans (h.unacked j)
  down hu := by
    obtain ⟨hd, hp, ha⟩ := h'.down hu
    obtain ⟨hd', hp', ha'⟩ := h.down hd
    exact ⟨hd', hp ∘ hp', ha ∘ ha'⟩

theorem State.noticeTest_kept (s : State) (n : SourceNo) : s.TableKept (s.noticeTest n) := by
  unfold State.noticeTest
  split
  · next h => exact ⟨rfl, fun j => by simp, fun _ => rfl, fun hd => absurd hd h.2.2⟩
  · exact .refl s

theorem State.newlyEnabled_kept (s : State) (n : SourceNo) : s.TableKept (s.newlyEnabled n) := by
  unfold State.newlyEnabled
  split
  · exact s.noticeTest_kept n
  · exact .refl s
  · exact .of_same rfl rfl rfl

theorem State.recordRaise_kept (s : State) (n : SourceNo) (bits : Byte) : s.TableKept (s.recordRaise n bits) := by
  have joined (r : SourceRecord) : s.TableKept (s.setSource n r) := .of_same rfl rfl rfl
  simp only [State.recordRaise]
  split
  · exact (joined _).trans (State.newlyEnabled_kept _ n)
  · exact joined _

theorem State.eventRemoved_kept (s : State) (n : SourceNo) : s.TableKept (s.eventRemoved n) := by
  have cleared (r : SourceRecord) : s.TableKept (s.setSource n r) := .of_same rfl rfl rfl
  simp only [State.eventRemoved]
  split
  · exact (cleared _).trans (State.noticeTest_kept _ n)
  · exact cleared _

theorem State.clearEvents_kept (s : State) (n : SourceNo) (mask : Byte) : s.TableKept (s.clearEvents n mask) := by
  have cleared : s.TableKept (s.clearBits n mask) := .of_same rfl rfl rfl
  refine State.TableKept.trans ?_ (State.noticeTest_kept _ n)
  unfold State.serviceAgain
  split
  · exact cleared.trans (State.recordRaise_kept _ n _)
  · exact cleared

theorem State.storeBayConfig_kept (s : State) (b : BayNo) (c : BayConfig) : s.TableKept (s.storeBayConfig b c) := by
  have stored : s.TableKept (s.setBayConfig b c) := .of_same rfl rfl rfl
  simp only [State.storeBayConfig]
  split
  · exact stored.trans (State.newlyEnabled_kept _ _)
  · exact stored

/-- A chain of operations that each keep the table keeps it. -/
theorem State.TableKept.foldl {α : Type} {f : State → α → State} (hf : ∀ (s : State) (a : α), s.TableKept (f s a)) (l : List α) :
    ∀ s : State, s.TableKept (l.foldl f s) := by
  induction l with
  | nil => exact .refl
  | cons a l ih => exact fun s => (hf s a).trans (ih (f s a))

/-- A session start from DOWN brings the link up and queues notices of event sources only (R146, R158). -/
theorem State.startSession_kept (s : State) (nonce : Word16) : s.TableKept (s.startSession nonce) := by
  simp only [State.startSession, State.startNotices]
  refine State.TableKept.trans ?_ (.foldl State.noticeTest_kept sessionOrder _)
  exact ⟨rfl, fun _ => rfl, fun _ => rfl, nofun⟩

/-- A change of the due marks keeps the notices (R170, R174, R176). -/
theorem map_notice_markDue (l : List Unacked) : (l.map Unacked.markDue).map Unacked.notice = l.map Unacked.notice := by
  rw [List.map_map]; rfl

theorem map_notice_clearFirstDue (l : List Unacked) :
    (clearFirstDue l).map Unacked.notice = l.map Unacked.notice := by
  induction l with
  | nil => rfl
  | cons u l ih => unfold clearFirstDue; split <;> simp [ih]

theorem State.unstall_kept (s : State) : s.TableKept s.unstall := by
  unfold State.unstall
  split
  · exact ⟨rfl, fun _ => rfl, fun _ => congrArg (List.count _) (map_notice_markDue _), nofun⟩
  · exact .refl s

theorem State.takeFrame_kept (s : State) (f : Frame) : s.TableKept (s.takeFrame f) :=
  State.TableKept.trans (.of_same (by simp) (by simp) (by simp)) (State.unstall_kept _)

/-- A frame that settles before step 7 of R154 reaches no job. -/
theorem State.settled?_kept (s t : State) (f : Frame) (h : s.settled? f = some t) : s.TableKept t := by
  unfold State.settled? at h
  split at h
  · cases h; exact .of_same rfl rfl rfl
  · split at h
    · cases h; exact .of_same rfl rfl rfl
    · obtain ⟨r, -, rfl⟩ := Option.map_eq_some_iff.mp h
      exact .of_same rfl rfl rfl

/-- A request that is executed finds the link UP (R154 step 5). -/
theorem State.link_of_unsettled (s : State) (f : Frame) (h : s.settled? f = none) : s.handler.link ≠ .down := by
  intro hd
  unfold State.settled? at h
  rw [if_pos hd] at h
  split at h <;> cases h

theorem State.ackExpired_kept (s : State) : s.TableKept s.ackExpired := by
  simp only [State.ackExpired]
  split
  · refine ⟨rfl, fun _ => rfl, fun _ => congrArg (List.count _) (map_notice_markDue _), fun hd => ?_⟩
    exact ⟨hd, id, fun h => by simp [State.setTransmitter, Transmitter.allDue, h]⟩
  · exact ⟨rfl, fun _ => rfl, fun _ => rfl, nofun⟩

theorem State.resendNotice_kept (s : State) (u : Unacked) :
    s.TableKept (s.resendNotice u) :=
  ⟨rfl, fun _ => rfl, fun _ => congrArg (List.count _) (map_notice_clearFirstDue _), fun hd =>
    ⟨hd, id, fun h => congrArg clearFirstDue h⟩⟩

end Sys2Proof.Machine
end

section
/-! PROOFS. The moves of the Job Table, and that every command and every step is a chain of them (95, what each step
holds). -/

namespace Sys2Proof.Machine

open Sys2Proof.Claims

/-- One move of the Job Table, with what the model tests before it. -/
inductive TableMove (s : State) : State → Prop
  | kept {t : State} (h : s.TableKept t) : TableMove s t
  | ends (j : SlotNo) (st : JobStatus) (o n : Nat) (h : (s.slot j).live = true) : TableMove s (s.endJob j st o n)
  | endsQueue (b : BayNo) (st : JobStatus) : TableMove s (s.endQueue b st)
  | marks (j : SlotNo) (m : Option AbortMark) (h : (s.slot j).state = .active) :
    TableMove s (s.setSlot j ((s.slot j).marked m))
  | accepts (j : SlotNo) (x : SubmitFields) (hl : s.handler.link ≠ .down) (hj : s.freeSlot? = some j)
    (hx : s.submitRefusal? x = none) : TableMove s (s.acceptJob j x)
  | grants (j : SlotNo) (b : BayNo) (hfree : s.activeSlot? = none) (hq : (s.queue b).head? = some j) :
    TableMove s
      ((s.setSlot j (s.slot j).granted).setQueue (s.slot j).bay ((s.queue (s.slot j).bay).filter fun i => i != j))
  | stores (blocks : List BlockNo) (i : Nat) (l : List Byte) :
    TableMove s (s.setPool (poolStore s.jobs.pool blocks i l))
  | sends (x : Notice) (rest : List Notice) (h : s.transmitter.pending = x :: rest) :
    TableMove s (s.sendNotice x rest)
  | acks (i : Nat) : TableMove s (s.removeUpTo i)
  | sessionEnds (kept : List QueuedReply) : TableMove s (s.endSession kept)
  | resets (cause : ResetCause) (straps : BitVec 2) : TableMove s (s.hardwareReset cause straps)
  | ticks : TableMove s s.tick

/-- A chain of moves of the Job Table. -/
def TableMoves (s t : State) : Prop := Relation.ReflTransGen TableMove s t

theorem TableMoves.refl (s : State) : TableMoves s s := Relation.ReflTransGen.refl

theorem TableMoves.trans {s t u : State} (h : TableMoves s t) (h' : TableMoves t u) : TableMoves s u :=
  Relation.ReflTransGen.trans h h'

theorem TableMoves.move {s t u : State} (h : TableMoves s t) (m : TableMove t u) : TableMoves s u :=
  Relation.ReflTransGen.tail h m

theorem TableMoves.kept {s t u : State} (h : TableMoves s t) (hk : t.TableKept u) : TableMoves s u := h.move (.kept hk)

/-- An operation that leaves the Job Table, the notice lists and the link state as they were. -/
theorem TableMoves.same {s t u : State} (h : TableMoves s t) (hj : u.jobs = t.jobs := by simp)
    (ht : u.transmitter = t.transmitter := by simp) (hl : u.handler.link = t.handler.link := by simp) :
    TableMoves s u := h.kept (.of_same hj ht hl)

/-- What a chain of moves keeps is what each move keeps. -/
theorem TableMoves.keeps {P : State → Prop} (hP : ∀ s t, TableMove s t → P s → P t) {s t : State}
    (h : TableMoves s t) (hs : P s) : P t := by
  induction h with
  | refl => exact hs
  | tail _ m ih => exact hP _ _ m ih

theorem TableMoves.ite {s t u : State} {p : Prop} [Decidable p] (ht : p → TableMoves s t)
    (hu : ¬p → TableMoves s u) : TableMoves s (if p then t else u) := by
  split
  · next hp => exact ht hp
  · next hp => exact hu hp

theorem TableMoves.actBay {s t : State} (h : TableMoves s t) (b : BayNo) (f : Bay → Bay × Byte) :
    TableMoves s (t.actBay b f) := h.same

theorem TableMoves.setBay {s t : State} (h : TableMoves s t) (b : BayNo) (r : Bay) : TableMoves s (t.setBay b r) :=
  h.same

/-! ## Frames on LINK_TX -/

/-- A boundary sends a reply, sends a notice again, or sends the pending head for the first time (R164, R169, R170). -/
theorem TableMoves.boundary {s t : State} (h : TableMoves s t) : TableMoves s t.boundary := by
  unfold State.boundary
  split
  · exact h.same rfl rfl rfl
  · refine .ite (fun _ => ?_) fun _ => h
    unfold State.offerNotice
    split
    · exact h.kept (t.resendNotice_kept _)
    · refine .ite (fun _ => ?_) fun _ => h
      split
      · next x rest hp => exact h.move (.sends x rest hp)
      · exact h

theorem TableMoves.fillLine {s t : State} (h : TableMoves s t) : TableMoves s t.fillLine :=
  .ite (fun _ => h.boundary) fun _ => h

theorem TableMoves.frameSent {s t : State} (h : TableMoves s t) :
    ∃ u, exec .frameSent t = .next u ∧ TableMoves s u := by
  refine ⟨_, rfl, ?_⟩
  split
  · have idle (p : LinkPort) : TableMoves s (t.setPort p) := h.same
    have drawn (p : LinkPort) (n : Nat) : TableMoves s ((t.setPort p).setDraws n) := (idle p).same
    simp only [State.frameEnded]
    refine .ite (fun _ => ?_) fun _ => .ite (fun _ => ?_) fun _ => ?_
    · exact (drawn _ _).move (.resets _ _)
    · refine TableMoves.boundary (.ite (fun _ => ?_) fun _ => idle _)
      exact (idle _).kept ⟨rfl, fun _ => rfl, fun _ => rfl, fun hd => ⟨hd, id, id⟩⟩
    · exact (idle _).boundary
  · exact h.boundary

/-! ## A bay's work taken away -/

/-- The disposal of an ACTIVE job marks it, or lets it run on (R103). -/
theorem TableMoves.disposeJob {s t : State} (h : TableMoves s t) {j : SlotNo} (hj : (t.slot j).state = .active)
    (i : BayInstruction) : TableMoves s (t.disposeJob j i) := by
  have marked := h.move (.marks j i.mark hj)
  unfold State.disposeJob
  split
  · exact h
  · exact .ite (fun _ => marked.same) fun _ => h
  · exact marked.same

theorem State.activeOf?_state (s : State) (b : BayNo) (j : SlotNo) (h : s.activeOf? b = some j) :
    (s.slot j).state = .active := by
  have := List.find?_some h
  simp only [Bool.and_eq_true, beq_iff_eq] at this
  exact this.1

theorem TableMoves.instruct {s t : State} (h : TableMoves s t) (b : BayNo) (i : BayInstruction) :
    TableMoves s (t.instruct b i) := by
  have ended := h.move (.endsQueue b i.status)
  simp only [State.instruct]
  split
  · next j hj => exact (ended.disposeJob (State.activeOf?_state _ b j hj) i).same
  · exact ended.same

theorem TableMoves.leaveRead {s t : State} (h : TableMoves s t) (b : BayNo) (d : Disposal) :
    TableMoves s (t.leaveRead b d) := h.same

theorem TableMoves.takeWork {s t : State} (h : TableMoves s t) (b : BayNo) (i : BayInstruction) :
    TableMoves s (t.takeWork b i) := (h.instruct b i).leaveRead b _

theorem TableMoves.faultBay {s t : State} (h : TableMoves s t) (b : BayNo) (k : FaultCause) :
    TableMoves s (t.faultBay b k) := by
  obtain ⟨-, hj, ht, -⟩ := t.faultBay_rest b k
  exact (h.takeWork b .bayFault).same hj ht

theorem TableMoves.busFault {s t : State} (h : TableMoves s t) (b : BayNo) : TableMoves s (t.busFault b) :=
  .ite (fun _ => h) fun _ => h.faultBay b .bus

theorem TableMoves.testPower {s t : State} (h : TableMoves s t) (b : BayNo) : TableMoves s (t.testPower b) :=
  .ite (fun _ => h.faultBay b .power) fun _ => h

theorem TableMoves.enterPowering {s t : State} (h : TableMoves s t) (b : BayNo) (o : Origin) :
    TableMoves s (t.enterPowering b o) := by
  have entered := h.setBay b (((t.bay b).accept .powerOn o).ramp (t.bayConfig b))
  simp only [State.enterPowering]
  exact .ite (fun _ => entered.faultBay b .power) fun _ => .ite (fun _ => entered.setBay b _) fun _ => entered

theorem TableMoves.powerOff {s t : State} (h : TableMoves s t) (b : BayNo) (o : Origin) :
    TableMoves s (t.powerOff b o) := (h.takeWork b _).actBay b _

theorem TableMoves.latchOpened {s t : State} (h : TableMoves s t) (b : BayNo) : TableMoves s (t.latchOpened b) := by
  unfold State.latchOpened
  split <;> exact (h.takeWork b _).actBay b _

theorem TableMoves.holdOffExpired {s t : State} (h : TableMoves s t) (b : BayNo) (x : HoldOffTarget) :
    TableMoves s (t.holdOffExpired b x) := by
  have ended := h.setBay b (t.bay b).endHoldOff
  cases x with
  | off => exact .ite (fun _ => ended.powerOff b .button) fun _ => ended
  | on => exact .ite (fun _ => ended.enterPowering b .button) fun _ => ended

/-! ## Reports, the bus and time -/

theorem TableMoves.takeReport {s t : State} (h : TableMoves s t) {α : Type} {sel : Report → Option α}
    {act : α → State → State} (hact : ∀ (a : α) (u : State), TableMoves s u → TableMoves s (act a u)) :
    TableMoves s (t.takeReport sel act) := by
  unfold State.takeReport
  split
  · exact h
  · exact hact _ _ h.same

theorem TableMoves.account {s t : State} (h : TableMoves s t) (b : BayNo) (x : Ending) :
    TableMoves s (t.account b x) := by
  simp only [State.account]
  exact .ite (fun _ => (h.setBay b _).busFault b) fun _ => h.setBay b _

theorem TableMoves.takeReadEnding {s t : State} (h : TableMoves s t) (b : BayNo) (x : ReadEnding) :
    TableMoves s (t.takeReadEnding b x) := by
  have counted : TableMoves s (t.countTimeout b x.ending) := h.same
  have gone : TableMoves s ((t.countTimeout b x.ending).setRead b .noRead) := counted.same
  refine .ite (fun _ => ?_) fun _ => counted
  unfold State.takeOutcome
  split
  · exact gone.actBay b _
  · exact gone.faultBay b .identity

theorem Slot.live_of_waiting {k : Slot} (h : k.state = .waiting) : k.live = true := by simp [Slot.live, h]

theorem Slot.live_of_active {k : Slot} (h : k.state = .active) : k.live = true := by simp [Slot.live, h]

theorem TableMoves.takeJobEnding {s t : State} (h : TableMoves s t) (j : SlotNo) (x : Ending) (o n : Nat) :
    TableMoves s (t.takeJobEnding j x o n) := by
  refine .ite (fun ha => ?_) fun _ => h
  have counted : TableMoves s (t.countTimeout (t.slot j).bay x) := h.same
  have live : ((t.countTimeout (t.slot j).bay x).slot j).live = true := by simp [Slot.live_of_active ha]
  dsimp only
  split
  · exact counted.move (.ends j _ o n live)
  · exact TableMoves.move (t := State.setDraws _ _) counted.same (.ends j _ o n live)

/-- A grant takes a bay's read, or the head of a queue while no job is ACTIVE (R116, R118). -/
theorem TableMoves.grant {s t : State} (h : TableMoves s t) : TableMoves s t.grant := by
  refine .ite (fun hf => ?_) fun _ => h
  split
  · exact h.same (by simp [State.grantRead]) (by simp [State.grantRead]) (by simp [State.grantRead])
  · next j hj =>
    have hfree : t.activeSlot? = none := by
      simp only [State.busFree, Bool.and_eq_true, Option.isNone_iff_eq_none] at hf
      exact hf.2
    obtain ⟨b, hb⟩ : ∃ b, (t.queue b).head? = some j := by
      unfold State.choice? at hj
      split at hj
      · cases hj
      · obtain ⟨i, hi, hij⟩ := Option.map_eq_some_iff.mp hj
        obtain ⟨b, -, hb⟩ := List.exists_of_findSome?_eq_some hi
        cases hij
        unfold State.jobCandidate? at hb
        split at hb
        · exact ⟨b, hb⟩
        · cases hb
    exact (h.move (.grants j b hfree hb)).same (by simp [State.grantJob]) (by simp [State.grantJob])
      (by simp [State.grantJob])
  · exact h

theorem TableMoves.runEngine {s t : State} (h : TableMoves s t) (f : Engine → Engine × List Report) :
    TableMoves s (t.runEngine f) := h.same

/-- An offer examined stores its bytes in the blocks of the job on the bus (R60, R66). -/
theorem TableMoves.takeOffer {s t : State} (h : TableMoves s t) : TableMoves s t.takeOffer := by
  refine .ite (fun _ => TableMoves.runEngine ?_ _) fun _ => h
  unfold State.storeOffer
  split
  · exact h.move (.stores _ _ _)
  · exact h

theorem TableMoves.idle {s t : State} (h : TableMoves s t) : TableMoves s t.idle := by
  unfold State.idle
  split
  · exact h.same rfl rfl rfl
  · refine .ite (fun _ => h.same rfl rfl rfl) fun _ => .ite (fun _ => h.same rfl rfl rfl) fun _ => ?_
    split
    · exact h.same rfl rfl rfl
    · exact h.move .ticks

/-! ## Requests -/

theorem TableMoves.takeFrame {s t : State} (h : TableMoves s t) (f : Frame) : TableMoves s (t.takeFrame f) :=
  h.kept (t.takeFrame_kept f)

/-- A request moves the table as its service does, which runs with the link UP (R154). -/
theorem TableMoves.request {s t : State} (h : TableMoves s t) {f : Frame} {good : Bool} {serve : State → Served}
    (hserve : ∀ u : State, u.handler.link ≠ .down → TableMoves s u → TableMoves s (serve u).1) :
    TableMoves s (t.request f good serve).fillLine := by
  have taken := h.takeFrame f
  refine TableMoves.fillLine ?_
  simp only [State.request]
  split
  · next u hu => exact taken.kept (State.settled?_kept _ u f hu)
  · next hu =>
    refine .ite (fun _ => ?_) fun _ => taken.same rfl rfl rfl
    exact (hserve _ (State.link_of_unsettled _ f hu) taken).same rfl rfl rfl

theorem TableMoves.forBay {s t : State} (h : TableMoves s t) {byte : Byte} {serve : BayNo → Served}
    (hserve : ∀ b, TableMoves s (serve b).1) : TableMoves s (t.forBay byte serve).1 := by
  unfold State.forBay
  split
  · exact hserve _
  · exact h

theorem TableMoves.requestEnd {s t : State} (h : TableMoves s t) (f : Frame) (restart : Bool) :
    TableMoves s (t.requestEnd f restart) := by
  have taken := h.takeFrame f
  simp only [State.requestEnd]
  split
  · next u hu => exact taken.kept (State.settled?_kept _ u f hu)
  · exact .ite (fun _ => taken.move (.sessionEnds _)) fun _ => taken.same rfl rfl rfl

theorem TableMoves.requestUnknown {s t : State} (h : TableMoves s t) (f : Frame) :
    TableMoves s (t.requestUnknown f) := by
  have taken := h.takeFrame f
  simp only [State.requestUnknown]
  split
  · next u hu => exact taken.kept (State.settled?_kept _ u f hu)
  · exact .ite (fun _ => taken.same rfl rfl rfl) fun _ => taken.same rfl rfl rfl

theorem TableMoves.answerOpen {s t : State} (h : TableMoves s t) (f : Frame) : TableMoves s (t.answerOpen f) :=
  h.same rfl rfl rfl

theorem TableMoves.startSession {s t : State} (h : TableMoves s t) (nonce : Word16) :
    TableMoves s (t.startSession nonce) := h.kept (t.startSession_kept nonce)

theorem TableMoves.requestOpen {s t : State} (h : TableMoves s t) (f : Frame) : TableMoves s (t.requestOpen f) := by
  have taken := h.takeFrame f
  simp only [State.requestOpen]
  refine .ite (fun _ => taken.same rfl rfl rfl) fun _ => .ite (fun _ => .ite (fun _ => ?_) fun _ =>
    .ite (fun _ => ?_) fun _ => ?_) fun _ => .ite (fun _ => taken.same rfl rfl rfl) fun _ => taken.same rfl rfl rfl
  · exact (taken.startSession _).answerOpen f
  · exact taken.same rfl rfl rfl
  · exact ((taken.move (.sessionEnds [])).startSession _).answerOpen f

theorem TableMoves.requestAck {s t : State} (h : TableMoves s t) (f : Frame) : TableMoves s (t.requestAck f) := by
  have taken := h.takeFrame f
  simp only [State.requestAck]
  refine .ite (fun _ => taken) fun _ => .ite (fun _ => ?_) fun _ => taken.same rfl rfl rfl
  unfold State.takeAck
  split
  · exact taken.move (.acks _)
  · exact taken.same rfl rfl rfl

theorem TableMoves.servePowerOn {s t : State} (h : TableMoves s t) (b : BayNo) : TableMoves s (t.servePowerOn b).1 := by
  unfold State.servePowerOn
  split
  case h_2 =>
    split
    · exact h.enterPowering b .link
    · exact h
  all_goals exact h

theorem TableMoves.servePowerOff {s t : State} (h : TableMoves s t) (b : BayNo) :
    TableMoves s (t.servePowerOff b).1 := by
  have superseded : TableMoves s (t.supersede b) := (h.takeWork b _).actBay b _
  have adopted : TableMoves s (t.adopt b).1 := by
    unfold State.adopt
    split
    · exact h
    · exact h.setBay b _
  unfold State.servePowerOff
  split
  case h_4 | h_5 | h_6 => exact superseded
  case h_7 =>
    dsimp only
    exact h.powerOff b .link
  case h_8 | h_9 => exact adopted
  all_goals exact h

theorem TableMoves.serveResetModule {s t : State} (h : TableMoves s t) (b : BayNo) :
    TableMoves s (t.serveResetModule b).1 := by
  unfold State.serveResetModule
  split
  case h_4 => exact (h.takeWork b .bayReset).setBay b _
  all_goals exact h

theorem TableMoves.serveClearFault {s t : State} (h : TableMoves s t) (b : BayNo) :
    TableMoves s (t.serveClearFault b).1 := by
  unfold State.serveClearFault
  split
  case h_2 =>
    split
    · exact h
    · exact h.setBay b _
  all_goals exact h

theorem TableMoves.serveIndicate {s t : State} (h : TableMoves s t) (p : List Byte) :
    TableMoves s (t.serveIndicate p).1 := by
  refine h.forBay fun b => ?_
  split
  · split
    · exact h.setBay b _
    · exact h
  · exact h

/-- A SUBMIT that no check refuses takes the lowest FREE slot (R99, R100). -/
theorem TableMoves.serveSubmit {s t : State} (h : TableMoves s t) (hl : t.handler.link ≠ .down) (p : List Byte) :
    TableMoves s (t.serveSubmit p).1 := by
  unfold State.serveSubmit
  split
  · exact h
  · next x _ =>
    split
    · next j hx hj => exact h.move (.accepts j x hl hj hx)
    · exact h
    · exact h

theorem TableMoves.serveCancel {s t : State} (h : TableMoves s t) (p : List Byte) :
    TableMoves s (t.serveCancel p).1 := by
  unfold State.serveCancel
  split
  · unfold State.cancelSlot
    split
    · next hw => exact h.move (.ends _ _ 0 0 (Slot.live_of_waiting hw))
    · next ha =>
      have marked := h.move (.marks _ (some .cancel) ha)
      exact .ite (fun _ => marked.same) fun _ => h
    all_goals exact h
  · exact h

theorem TableMoves.serveJobStatus {s t : State} (h : TableMoves s t) (p : List Byte) :
    TableMoves s (t.serveJobStatus p).1 := by
  unfold State.serveJobStatus
  split <;> exact h

theorem TableMoves.serveClearEvents {s t : State} (h : TableMoves s t) (p : List Byte) :
    TableMoves s (t.serveClearEvents p).1 := by
  unfold State.serveClearEvents
  split
  · split
    · exact h
    · exact h.kept (t.clearEvents_kept _ _)
  · exact h

theorem TableMoves.serveSetBayConfig {s t : State} (h : TableMoves s t) (p : List Byte) :
    TableMoves s (t.serveSetBayConfig p).1 := by
  unfold State.serveSetBayConfig
  split
  · next bs c _ _ => exact h.kept (.foldl (fun u b => u.storeBayConfig_kept b c) bs t)
  · exact h

theorem TableMoves.serveSetLinkConfig {s t : State} (h : TableMoves s t) (p : List Byte) :
    TableMoves s (t.serveSetLinkConfig p).1 := by
  unfold State.serveSetLinkConfig
  split
  · exact h.same
  · exact h

theorem TableMoves.serveGetCounters {s t : State} (h : TableMoves s t) (p : List Byte) :
    TableMoves s (t.serveGetCounters p).1 := by
  have cleared (n : SourceNo) : TableMoves s (t.clearCounters n) := by
    unfold State.clearCounters
    split <;> exact h.same
  unfold State.serveGetCounters
  split
  · split
    · exact h
    · split
      · exact cleared _
      · exact h
  · exact h

/-! ## The whole machine -/

/-- Every command answers a next state, by a chain of moves of the Job Table. -/
theorem exec_tableMoves (i : Instr) (s : State) : ∃ t, exec i s = .next t ∧ TableMoves s t := by
  have h := TableMoves.refl s
  cases i with
  -- the sideband inputs and the timers of a bay
  | hardwareReset cause straps => exact ⟨_, rfl, h.move (.resets cause straps)⟩
  | sidebandLineEdge b line x => exact ⟨_, rfl, h.setBay b _⟩
  | presenceAssert b => exact ⟨_, rfl, .ite (fun _ => h.actBay b _) fun _ => h⟩
  | presenceLoss b => exact ⟨_, rfl, .ite (fun _ => ((h.takeWork b _).actBay b _).fillLine) fun _ => h⟩
  | latchChange b =>
    exact ⟨_, rfl, .ite (fun _ => .ite (fun _ => (h.latchOpened b).fillLine) fun _ => h.actBay b _) fun _ => h⟩
  | attentionPress b =>
    have counted : TableMoves s (s.setBayCounters b (s.bayCounters b).press) := h.same
    exact ⟨_, rfl, .ite (fun _ => counted.actBay b _) fun _ => h⟩
  | attentionRelease b => exact ⟨_, rfl, .ite (fun _ => h.setBay b _) fun _ => h⟩
  | pgoodRise b => exact ⟨_, rfl, .ite (fun _ => h) fun _ => h.setBay b _⟩
  | pgoodFall b =>
    exact ⟨_, rfl, .ite (fun _ => TableMoves.fillLine
      (.ite (fun _ => (h.setBay b _).actBay b _) fun _ => (h.setBay b _).testPower b)) fun _ => h⟩
  | pfaultAssert b => exact ⟨_, rfl, .ite (fun _ => h) fun _ => ((h.setBay b _).testPower b).fillLine⟩
  | pfaultDeassert b => exact ⟨_, rfl, h.setBay b _⟩
  | srqChange b x => exact ⟨_, rfl, h.actBay b _⟩
  | powerUpExpiry b => exact ⟨_, rfl, .ite (fun _ => (h.faultBay b _).fillLine) fun _ => h⟩
  | settleExpiryPowering b => exact ⟨_, rfl, .ite (fun _ => h.setBay b _) fun _ => h⟩
  | resetPulseExpiry b => exact ⟨_, rfl, .ite (fun _ => h.setBay b _) fun _ => h⟩
  | settleExpiryResetting b => exact ⟨_, rfl, .ite (fun _ => h.setBay b _) fun _ => h⟩
  | dischargeExpiry b => exact ⟨_, rfl, .ite (fun _ => (h.faultBay b _).fillLine) fun _ => h⟩
  | holdOffExpiry b =>
    refine ⟨_, rfl, ?_⟩
    split
    · exact (h.holdOffExpired b _).fillLine
    · exact h
  | blinkToggle => exact ⟨_, rfl, h.same⟩
  -- requests that a bay serves
  | powerOn seq bay => exact ⟨_, rfl, h.request fun t _ ht => ht.forBay fun b => ht.servePowerOn b⟩
  | powerOff seq bay => exact ⟨_, rfl, h.request fun t _ ht => ht.forBay fun b => ht.servePowerOff b⟩
  | resetModule seq bay => exact ⟨_, rfl, h.request fun t _ ht => ht.forBay fun b => ht.serveResetModule b⟩
  | clearFault seq bay => exact ⟨_, rfl, h.request fun t _ ht => ht.forBay fun b => ht.serveClearFault b⟩
  | indicate seq p => exact ⟨_, rfl, h.request fun t _ ht => ht.serveIndicate p⟩
  | bayStatus seq p => exact ⟨_, rfl, h.request fun t _ ht => ht.forBay fun _ => ht⟩
  | bayIdentity seq p => exact ⟨_, rfl, h.request fun t _ ht => ht.forBay fun _ => ht⟩
  -- the Bus Arbiter and the Module Bus Engine
  | grant => exact ⟨_, rfl, h.grant⟩
  | mbAckRise lines => exact ⟨_, rfl, .ite (fun _ => h) fun _ => ((h.same (u := s.setEngine _)).runEngine _).takeOffer⟩
  | mbAckFall => exact ⟨_, rfl, .ite (fun _ => (h.same (u := s.setEngine _)).runEngine _) fun _ => h⟩
  | mbRevackRise lines =>
    exact ⟨_, rfl, .ite (fun _ => h) fun _ => ((h.same (u := s.setEngine _)).runEngine _).takeOffer⟩
  | mbRevackFall => exact ⟨_, rfl, .ite (fun _ => (h.same (u := s.setEngine _)).runEngine _) fun _ => h⟩
  | byteTimerExpiry => exact ⟨_, rfl, .ite (fun _ => h.runEngine _) fun _ => h⟩
  | turnaroundTimerExpiry => exact ⟨_, rfl, .ite (fun _ => h.runEngine _) fun _ => h⟩
  | heldTimerExpiry => exact ⟨_, rfl, .ite (fun _ => h.runEngine _) fun _ => h⟩
  | abortRequest w => exact ⟨_, rfl, (h.takeReport fun _ _ ht => ht).runEngine _⟩
  | abandonRequest w => exact ⟨_, rfl, h.same⟩
  -- reports
  | releaseReport b => exact ⟨_, rfl, h.takeReport fun _ _ ht => ht.actBay b _⟩
  | liveCountReport b => exact ⟨_, rfl, h.takeReport fun _ _ ht => ht.actBay b _⟩
  | timeoutAccountingReport b => exact ⟨_, rfl, h.takeReport fun x _ ht => (ht.account b x).fillLine⟩
  | busFaultReport b => exact ⟨_, rfl, h.takeReport fun _ _ ht => (ht.busFault b).fillLine⟩
  | identityEndingReport b => exact ⟨_, rfl, h.takeReport fun x _ ht => (ht.takeReadEnding b x).fillLine⟩
  | jobEndingReport j => exact ⟨_, rfl, h.takeReport fun _ _ ht => (ht.takeJobEnding j _ _ _).fillLine⟩
  | eventRaise n => exact ⟨_, rfl, h.takeReport fun bits t ht => (ht.kept (t.recordRaise_kept n bits)).fillLine⟩
  -- jobs, events, configuration and counters
  | deadlineExpiry j =>
    exact ⟨_, rfl, .ite (fun hw => (h.move (.ends j _ 0 0 (Slot.live_of_waiting hw.1))).fillLine) fun _ => h⟩
  | submit seq p => exact ⟨_, rfl, h.request fun t hl ht => ht.serveSubmit hl p⟩
  | cancel seq p => exact ⟨_, rfl, h.request fun t _ ht => ht.serveCancel p⟩
  | jobStatus seq p => exact ⟨_, rfl, h.request fun t _ ht => ht.serveJobStatus p⟩
  | clearEvents seq p => exact ⟨_, rfl, h.request fun t _ ht => ht.serveClearEvents p⟩
  | setBayConfig seq p => exact ⟨_, rfl, h.request fun t _ ht => ht.serveSetBayConfig p⟩
  | getBayConfig seq p => exact ⟨_, rfl, h.request fun t _ ht => ht.forBay fun _ => ht⟩
  | setLinkConfig seq p => exact ⟨_, rfl, h.request fun t _ ht => ht.serveSetLinkConfig p⟩
  | getLinkConfig seq p => exact ⟨_, rfl, h.request fun t _ ht => ht⟩
  | getCounters seq p => exact ⟨_, rfl, h.request fun t _ ht => ht.serveGetCounters p⟩
  -- the Carrier Link
  | linkRxByte x => exact ⟨_, rfl, h.same rfl rfl rfl⟩
  | gapExpiry => exact ⟨_, rfl, .ite (fun _ => h.same rfl rfl rfl) fun _ => h⟩
  | openSession seq p => exact ⟨_, rfl, (h.requestOpen _).fillLine⟩
  | closeSession seq p => exact ⟨_, rfl, (h.requestEnd _ _).fillLine⟩
  | restart seq p => exact ⟨_, rfl, (h.requestEnd _ _).fillLine⟩
  | ping seq p => exact ⟨_, rfl, h.request fun t _ ht => ht⟩
  | ack seq p => exact ⟨_, rfl, (h.requestAck _).fillLine⟩
  | unknownRequest kind seq p => exact ⟨_, rfl, (h.requestUnknown _).fillLine⟩
  | frameSent => exact h.frameSent
  | ackTimerExpiry => exact ⟨_, rfl, .ite (fun _ => (h.kept s.ackExpired_kept).fillLine) fun _ => h⟩

/-- A step is a chain of moves of the Job Table. -/
theorem step_tableMoves {s t : State} (h : step s = .next t) : TableMoves s t := by
  unfold step at h
  split at h
  · next c rest _ =>
    obtain ⟨u, hu, hmoves⟩ := exec_tableMoves c { s with pending := rest }
    obtain rfl : u = t := Host.Outcome.next.inj (hu.symm.trans h)
    exact (TableMoves.same (u := { s with pending := rest }) (.refl s) rfl rfl rfl).trans hmoves
  · obtain rfl : s.idle = t := Host.Outcome.next.inj h
    exact (TableMoves.refl s).idle

/-- What every move of the table keeps, every step keeps. -/
theorem step_keeps {P : State → Prop} (hP : ∀ s t, TableMove s t → P s → P t) {s t : State} (hs : P s)
    (h : step s = .next t) : P t := (step_tableMoves h).keeps hP hs

end Sys2Proof.Machine
end

section
/-! PROOFS. What each move of the Job Table does to the pool and to the slots; the pool's form and bounds, the blocks and
the one ACTIVE job through every step (R91, R93; assumption log 6). -/

namespace Sys2Proof.Machine

open Sys2Proof.Claims

/-! ## The pool -/

theorem State.endQueue_pool (s : State) (b : BayNo) (st : JobStatus) : (s.endQueue b st).jobs.pool = s.jobs.pool := by
  unfold State.endQueue
  generalize s.queue b = q
  induction q generalizing s with
  | nil => rfl
  | cons j q ih => exact (ih (s.endJob j st 0 0)).trans (s.endJob_pool j st 0 0)

theorem State.sendNotice_pool (s : State) (x : Notice) (rest : List Notice) :
    (s.sendNotice x rest).jobs.pool = s.jobs.pool := by
  cases x <;> rfl

theorem State.noticesRemoved_pool (l : List Unacked) :
    ∀ s : State, (l.foldl (fun t u => t.noticeRemoved u.notice) s).jobs.pool = s.jobs.pool := by
  induction l with
  | nil => exact fun s => rfl
  | cons u l ih =>
    intro s
    refine (ih (s.noticeRemoved u.notice)).trans ?_
    cases u.notice with
    | jobDone j => rfl
    | event n => simp [State.noticeRemoved]

theorem State.removeUpTo_pool (s : State) (i : Nat) : (s.removeUpTo i).jobs.pool = s.jobs.pool := by
  simp only [State.removeUpTo, State.setTransmitter_jobs]
  exact State.noticesRemoved_pool _ _

theorem State.hardwareReset_pool (s : State) (cause : ResetCause) (straps : BitVec 2) :
    (s.hardwareReset cause straps).jobs.pool = s.jobs.pool := rfl

theorem State.tick_pool (s : State) : s.tick.jobs.pool = s.jobs.pool := by simp only [State.tick]

/-- A move of the table leaves the pool as it is, or stores data bytes in some blocks (R60, R100). -/
theorem TableMove.pool {s t : State} (h : TableMove s t) :
    t.jobs.pool = s.jobs.pool ∨ ∃ blocks i l, t.jobs.pool = poolStore s.jobs.pool blocks i l := by
  cases h with
  | kept h => exact .inl (congrArg JobTable.pool h.jobs)
  | ends j st o n => exact .inl (by simp)
  | endsQueue b st => exact .inl (s.endQueue_pool b st)
  | accepts j x => exact .inr ⟨_, _, _, rfl⟩
  | stores blocks i l => exact .inr ⟨blocks, i, l, rfl⟩
  | sends x rest => exact .inl (s.sendNotice_pool x rest)
  | acks i => exact .inl (s.removeUpTo_pool i)
  | sessionEnds kept =>
    obtain ⟨-, hpool, -⟩ := s.endSession_spec kept
    exact .inl hpool
  | marks => exact .inl rfl
  | grants => exact .inl rfl
  | resets cause straps => exact .inl (s.hardwareReset_pool cause straps)
  | ticks => exact .inl s.tick_pool

/-- Settles O55: storing data bytes keeps the canonical form and the bounds, and no other move touches the pool. -/
theorem poolStaysCanonical : Obligations.PoolStaysCanonical := by
  have canonical (s t : State) (m : TableMove s t) (h : Memory.wf s.jobs.pool = true) : Memory.wf t.jobs.pool = true := by
    obtain e | ⟨blocks, i, l, e⟩ := m.pool
    · rwa [e]
    · rw [e]; exact poolStore_wf _ blocks i l h
  have bounded (s t : State) (m : TableMove s t) (h : s.PoolBounded) : t.PoolBounded := by
    unfold State.PoolBounded
    obtain e | ⟨blocks, i, l, e⟩ := m.pool
    · rwa [e]
    · rw [e]; exact poolStore_bounded _ blocks i l h
  exact ⟨fun s t h hstep => step_keeps canonical h hstep, fun s t h hstep => step_keeps bounded h hstep⟩

/-! ## The slots -/

/-- A slot that comes to hold no more: it is not made ACTIVE, and takes no block. -/
structure Slot.Shrinks (k k' : Slot) : Prop where
  active : k'.state = .active → k.state = .active
  blocks : k'.blocks.Sublist k.blocks

theorem Slot.Shrinks.refl (k : Slot) : k.Shrinks k := ⟨id, .refl _⟩

theorem Slot.Shrinks.trans {k k' k'' : Slot} (h : k.Shrinks k') (h' : k'.Shrinks k'') : k.Shrinks k'' :=
  ⟨h.active ∘ h'.active, h'.blocks.trans h.blocks⟩

theorem Slot.Shrinks.of_eq {k k' : Slot} (h : k' = k) : k.Shrinks k' := h ▸ .refl k

theorem Slot.free_shrinks (k : Slot) : k.Shrinks Slot.free := ⟨nofun, List.nil_sublist _⟩

theorem Slot.ended_shrinks (k : Slot) (st : JobStatus) (o n : Nat) : k.Shrinks (k.ended st o n) := by
  unfold Slot.ended
  split
  · exact k.free_shrinks
  · refine ⟨nofun, ?_⟩
    cases hk : k.kind
    · exact List.nil_sublist _
    · exact .refl _

theorem Slot.sessionEnd_shrinks (k : Slot) : k.Shrinks k.sessionEnd := by
  unfold Slot.sessionEnd
  split
  case h_1 => exact .refl k
  case h_5 =>
    split
    · exact .refl k
    · exact ⟨id, .refl _⟩
  all_goals exact k.free_shrinks

theorem State.endQueue_shrinks (s : State) (b : BayNo) (st : JobStatus) (i : SlotNo) :
    (s.slot i).Shrinks ((s.endQueue b st).slot i) := by
  unfold State.endQueue
  generalize s.queue b = q
  induction q generalizing s with
  | nil => exact .refl _
  | cons j q ih =>
    refine Slot.Shrinks.trans ?_ (ih (s.endJob j st 0 0))
    rw [State.endJob_slot]
    split
    · next h => exact h ▸ Slot.ended_shrinks _ st 0 0
    · exact .refl _

/-- The first send of a notice changes the slot of a job done to DONE-SENT (R96, R169). -/
theorem State.sendNotice_slot (s : State) (x : Notice) (rest : List Notice) (i : SlotNo) :
    (s.sendNotice x rest).slot i = if x = .jobDone i then { s.slot i with state := .doneSent } else s.slot i := by
  cases x with
  | jobDone j =>
    refine (s.setSlot_slot i j { s.slot j with state := .doneSent }).trans ?_
    by_cases hi : i = j
    · subst hi; simp
    · simp [hi, Ne.symm hi]
  | event n => rfl

/-- The removals of an ACK free the slots of the notices removed (R97, R171). -/
theorem State.noticesRemoved_slot (l : List Unacked) (i : SlotNo) : ∀ s : State,
    (l.foldl (fun t u => t.noticeRemoved u.notice) s).slot i =
      if .jobDone i ∈ l.map Unacked.notice then Slot.free else s.slot i := by
  induction l with
  | nil => exact fun s => rfl
  | cons u l ih =>
    intro s
    refine (ih (s.noticeRemoved u.notice)).trans ?_
    have hu : (s.noticeRemoved u.notice).slot i = if u.notice = .jobDone i then Slot.free else s.slot i := by
      cases u.notice with
      | jobDone j =>
        refine (s.setSlot_slot i j Slot.free).trans ?_
        simp [eq_comm]
      | event n => simp [State.noticeRemoved]
    rw [hu]
    by_cases h1 : u.notice = .jobDone i <;> simp [h1, eq_comm]

theorem State.removeUpTo_slot (s : State) (n : Nat) (i : SlotNo) :
    (s.removeUpTo n).slot i =
      if .jobDone i ∈ (s.transmitter.unacked.take (n + 1)).map Unacked.notice then Slot.free else s.slot i := by
  simp only [State.removeUpTo, State.setTransmitter_slot]
  exact State.noticesRemoved_slot _ i _

theorem State.tick_slot (s : State) (j : SlotNo) : s.tick.slot j = (s.slot j).tick := by
  simp [State.tick, State.slot]

theorem State.hardwareReset_slot (s : State) (cause : ResetCause) (straps : BitVec 2) (j : SlotNo) :
    (s.hardwareReset cause straps).slot j = Slot.free := State.reset_slot j

theorem State.endSession_slot (s : State) (kept : List QueuedReply) (j : SlotNo) :
    (s.endSession kept).slot j = (s.slot j).sessionEnd := by
  obtain ⟨-, -, -, hslots, -⟩ := s.endSession_spec kept
  obtain ⟨hother, horphan, hactive⟩ := hslots j
  rw [Slot.sessionEnd_eq]
  split
  · next ha =>
    split
    · next ho => exact horphan ha ho
    · next ho => exact hactive ha (Bool.eq_false_iff.mpr ho)
  · next ha => exact hother ha

theorem State.freeSlot?_state (s : State) (j : SlotNo) (h : s.freeSlot? = some j) : (s.slot j).state = .free := by
  simpa using List.find?_some h

theorem State.not_active_of_activeSlot? (s : State) (h : s.activeSlot? = none) (i : SlotNo) :
    (s.slot i).state ≠ .active := by
  rw [State.activeSlot?, List.find?_eq_none] at h
  simpa using h i (List.mem_finRange i)

/-- The slots of an accepted job and of the others (R100). -/
theorem State.acceptJob_slot (s : State) (j i : SlotNo) (x : SubmitFields) :
    (s.acceptJob j x).slot i =
      if i = j then x.slot (s.freeBlocks.take (blocksNeeded x.outData.length x.inLimit)) else s.slot i :=
  s.setSlot_slot i j _

/-- A slot made WAITING takes free blocks and is the only one that comes to hold more (R100). -/
def State.Accepts (s t : State) (j : SlotNo) : Prop :=
  (∀ i, i ≠ j → t.slot i = s.slot i) ∧ (t.slot j).state = .waiting ∧ ∃ n, (t.slot j).blocks = s.freeBlocks.take n

/-- A slot made ACTIVE keeps its blocks, and no other was ACTIVE (R116, R118). -/
def State.Grants (s t : State) (j : SlotNo) : Prop :=
  (∀ i, i ≠ j → t.slot i = s.slot i) ∧ (t.slot j).blocks = (s.slot j).blocks ∧ ∀ i, (s.slot i).state ≠ .active

/-- What a move of the table does to the slots: none comes to hold more, or one is accepted, or one is granted. -/
theorem TableMove.slots {s t : State} (h : TableMove s t) :
    (∀ i, (s.slot i).Shrinks (t.slot i)) ∨ ∃ j, s.Accepts t j ∨ s.Grants t j := by
  cases h with
  | kept h => exact .inl fun i => .of_eq (by simp only [State.slot, h.jobs])
  | ends j st o n =>
    refine .inl fun i => ?_
    rw [State.endJob_slot]
    split
    · next h => exact h ▸ Slot.ended_shrinks _ st o n
    · exact .refl _
  | endsQueue b st => exact .inl (s.endQueue_shrinks b st)
  | marks j m =>
    refine .inl fun i => ?_
    rw [State.setSlot_slot]
    split
    · next h => exact h ▸ ⟨id, .refl _⟩
    · exact .refl _
  | accepts j x =>
    refine .inr ⟨j, .inl ⟨fun i hi => ?_, ?_, blocksNeeded x.outData.length x.inLimit, ?_⟩⟩
    · rw [State.acceptJob_slot, if_neg hi]
    · rw [State.acceptJob_slot, if_pos rfl]; rfl
    · rw [State.acceptJob_slot, if_pos rfl]; rfl
  | grants j b hfree hq =>
    exact .inr ⟨j, .inr ⟨fun i hi => by simp [hi], by simp [Slot.granted],
      s.not_active_of_activeSlot? hfree⟩⟩
  | stores => exact .inl fun i => .refl _
  | sends x rest =>
    refine .inl fun i => ?_
    rw [State.sendNotice_slot]
    split
    · exact ⟨nofun, .refl _⟩
    · exact .refl _
  | acks n =>
    refine .inl fun i => ?_
    rw [State.removeUpTo_slot]
    split
    · exact Slot.free_shrinks _
    · exact .refl _
  | sessionEnds kept =>
    refine .inl fun i => ?_
    rw [State.endSession_slot]
    exact Slot.sessionEnd_shrinks _
  | resets cause straps =>
    refine .inl fun i => ?_
    rw [State.hardwareReset_slot]
    exact Slot.free_shrinks _
  | ticks =>
    refine .inl fun i => ?_
    rw [State.tick_slot]
    exact ⟨id, .refl _⟩

/-! ## One ACTIVE job -/

theorem TableMove.oneActive {s t : State} (m : TableMove s t) (h : s.OneActive) : t.OneActive := by
  obtain hs | ⟨j, ⟨hother, hwait, -⟩ | ⟨hother, -, hnone⟩⟩ := m.slots
  · exact fun i k hi hk => h i k ((hs i).active hi) ((hs k).active hk)
  · have ne (i : SlotNo) (hi : (t.slot i).state = .active) : i ≠ j := fun e => by simp [e, hwait] at hi
    exact fun i k hi hk => h i k (hother i (ne i hi) ▸ hi) (hother k (ne k hk) ▸ hk)
  · have eq (i : SlotNo) (hi : (t.slot i).state = .active) : i = j := by
      by_contra hne
      exact hnone i (hother i hne ▸ hi)
    exact fun i k hi hk => (eq i hi).trans (eq k hk).symm

/-! ## Blocks -/

theorem State.mem_freeBlocks (s : State) (n : BlockNo) : n ∈ s.freeBlocks ↔ ∀ j, n ∉ (s.slot j).blocks := by
  simp [State.freeBlocks, State.blockHeld]

theorem State.freeBlocks_pairwise (s : State) : s.freeBlocks.Pairwise (· < ·) :=
  (List.pairwise_lt_finRange 48).filter _

theorem State.freeBlocks_nodup (s : State) : s.freeBlocks.Nodup := (List.nodup_finRange 48).filter _

/-- No block is held twice where each slot's blocks are as they were, or fewer. -/
theorem State.BlocksApart.sublist {s t : State} (h : s.BlocksApart)
    (hs : ∀ i, (t.slot i).blocks.Sublist (s.slot i).blocks) : t.BlocksApart :=
  ⟨fun i => (h.1 i).sublist (hs i), fun i k n hi hk => h.2 i k n ((hs i).subset hi) ((hs k).subset hk)⟩

/-- An accepted job takes blocks that no slot holds (R93, R100). -/
theorem State.BlocksApart.accepts {s t : State} (h : s.BlocksApart) {j : SlotNo} (ha : s.Accepts t j) :
    t.BlocksApart := by
  obtain ⟨hother, -, n, hblocks⟩ := ha
  have free (b : BlockNo) (hb : b ∈ (t.slot j).blocks) (i : SlotNo) : b ∉ (s.slot i).blocks :=
    (s.mem_freeBlocks b).mp (List.mem_of_mem_take (hblocks ▸ hb)) i
  refine ⟨fun i => ?_, fun i k b hi hk => ?_⟩
  · by_cases hij : i = j
    · rw [hij, hblocks]; exact s.freeBlocks_nodup.sublist (List.take_sublist _ _)
    · exact hother i hij ▸ h.1 i
  · by_cases hij : i = j <;> by_cases hkj : k = j
    · exact hij.trans hkj.symm
    · exact absurd (hother k hkj ▸ hk) (free b (hij ▸ hi) k)
    · exact absurd (hother i hij ▸ hi) (free b (hkj ▸ hk) i)
    · exact h.2 i k b (hother i hij ▸ hi) (hother k hkj ▸ hk)

theorem TableMove.blocksApart {s t : State} (m : TableMove s t) (h : s.BlocksApart) : t.BlocksApart := by
  obtain hs | ⟨j, ha | ⟨hother, hblocks, -⟩⟩ := m.slots
  · exact h.sublist fun i => (hs i).blocks
  · exact h.accepts ha
  · refine h.sublist fun i => ?_
    by_cases hij : i = j
    · rw [hij, hblocks]
    · rw [hother i hij]

/-- The blocks held by job slots, slot after slot. -/
def State.heldBlocks (s : State) : List BlockNo := (List.finRange 32).flatMap fun j => (s.slot j).blocks

theorem State.heldBlocks_length (s : State) : s.heldBlocks.length = s.heldCount := by
  simp [State.heldBlocks, State.heldCount, List.length_flatMap]

theorem State.BlocksApart.heldBlocks_nodup {s : State} (h : s.BlocksApart) : s.heldBlocks.Nodup := by
  refine List.nodup_flatMap.mpr ⟨fun j _ => h.1 j, (List.nodup_finRange 32).imp fun {i j} hij b hi hj => ?_⟩
  exact hij (h.2 i j b hi hj)

/-- Free and held blocks are the 48 blocks, each once (R93). -/
theorem State.BlocksApart.free_and_held {s : State} (h : s.BlocksApart) : s.freeBlocks.length + s.heldCount = 48 := by
  have hmem (b : BlockNo) : b ∈ s.freeBlocks ++ s.heldBlocks := by
    simp only [List.mem_append, s.mem_freeBlocks, State.heldBlocks, List.mem_flatMap, List.mem_finRange, true_and]
    by_cases hb : ∃ j, b ∈ (s.slot j).blocks
    · exact .inr hb
    · exact .inl (not_exists.mp hb)
  have hnodup : (s.freeBlocks ++ s.heldBlocks).Nodup := by
    refine List.nodup_append.mpr ⟨s.freeBlocks_nodup, h.heldBlocks_nodup, fun a ha b hb hab => ?_⟩
    obtain ⟨j, -, hj⟩ := List.mem_flatMap.mp hb
    exact (s.mem_freeBlocks a).mp ha j (hab ▸ hj)
  have hperm : (s.freeBlocks ++ s.heldBlocks).Perm (List.finRange 48) :=
    (List.perm_ext_iff_of_nodup hnodup (List.nodup_finRange 48)).mpr fun b => by simp [hmem]
  rw [← s.heldBlocks_length, ← List.length_append, hperm.length_eq, List.length_finRange]

/-- Settles O56: by what each move of the table does to the slots, and by counting the blocks. -/
theorem blocksAndActiveJobStayApart : Obligations.BlocksAndActiveJobStayApart :=
  ⟨fun _ _ h hstep => step_keeps (fun _ _ m => m.blocksApart) h hstep, fun _ h => h.free_and_held,
    fun _ _ h hstep => step_keeps (fun _ _ m => m.oneActive) h hstep⟩

end Sys2Proof.Machine
end

section
/-! PROOFS. Each move of the Job Table keeps the table's laws: live counts, tags, the fields of a slot by its state, the
queues and the JOB-DONE notices (R90 to R92, R95, R96, R102, R112). -/

namespace Sys2Proof.Machine

open Sys2Proof.Claims

/-! ## Slots -/

/-- A slot that is live or findable afterwards was so before, with the same bay or tag. -/
structure Slot.Fades (k k' : Slot) : Prop where
  live : k'.live = true → k.live = true ∧ k'.bay = k.bay
  found : k'.findable = true → k.findable = true ∧ k'.tag = k.tag

theorem Slot.Fades.refl (k : Slot) : k.Fades k := ⟨fun h => ⟨h, rfl⟩, fun h => ⟨h, rfl⟩⟩

theorem Slot.free_fades (k : Slot) : k.Fades Slot.free := ⟨nofun, nofun⟩

theorem Slot.live_iff (k : Slot) : k.live = true ↔ k.state = .waiting ∨ k.state = .active := by simp [Slot.live]

theorem Slot.findable_iff (k : Slot) : k.findable = true ↔ k.state ≠ .free ∧ k.orphan = false := by
  simp [Slot.findable]

/-- A job ended is done and keeps its tag, or its slot is FREE (R95). -/
theorem Slot.ended_of_orphan (k : Slot) (st : JobStatus) (o n : Nat) (h : k.orphan = true) :
    k.ended st o n = Slot.free := if_pos h

theorem Slot.ended_state (k : Slot) (st : JobStatus) (o n : Nat) :
    (k.ended st o n).state = if k.orphan then .free else .donePending := by
  unfold Slot.ended; split <;> rfl

theorem Slot.ended_fades (k : Slot) (st : JobStatus) (o n : Nat) (h : k.live = true) : k.Fades (k.ended st o n) := by
  have hk : k.state ≠ .free := by rcases k.live_iff.mp h with h | h <;> simp [h]
  unfold Slot.ended
  split
  · exact k.free_fades
  · next ho =>
    exact ⟨fun hl => by simp [Slot.live] at hl, fun _ => ⟨k.findable_iff.mpr ⟨hk, Bool.eq_false_iff.mpr ho⟩, rfl⟩⟩

theorem Slot.legal_ended (k : Slot) (st : JobStatus) (o n : Nat) : (k.ended st o n).Legal := by
  unfold Slot.ended
  split
  · exact Slot.legal_free
  · next ho =>
    cases k.kind <;> simp [Slot.Legal, ho]

theorem Slot.legal_marked (k : Slot) (m : Option AbortMark) (h : k.Legal) (ha : k.state = .active) :
    (k.marked m).Legal := by
  obtain ⟨-, -, hdeadline, hfinal, -, -⟩ := h
  simp [Slot.Legal, Slot.marked, ha] at *
  simp [hdeadline, hfinal]

theorem Slot.legal_granted (k : Slot) (h : k.Legal) (hw : k.state = .waiting) : k.granted.Legal := by
  obtain ⟨-, -, -, hfinal, -, -⟩ := h
  simp [hw] at hfinal
  simp [Slot.Legal, Slot.granted, hfinal]

theorem Slot.legal_sent (k : Slot) (h : k.Legal) (hd : k.state = .donePending) :
    ({ k with state := .doneSent } : Slot).Legal := by
  obtain ⟨-, horphan, hdeadline, hfinal, -, hblocks⟩ := h
  simp [hd] at horphan hdeadline hfinal hblocks
  simpa [Slot.Legal, horphan, hdeadline, hfinal] using hblocks

theorem Slot.legal_tick (k : Slot) (h : k.Legal) : k.tick.Legal := by
  obtain ⟨hfree, horphan, hdeadline, hfinal, hmark, hblocks⟩ := h
  refine ⟨fun hs => ?_, horphan, fun hs => hdeadline ?_, hfinal, hmark, hblocks⟩
  · rw [hfree hs]; rfl
  · simpa [Slot.tick, Machine.tick] using hs

/-- A slot at a session end is FREE, or an ACTIVE orphan (R112). -/
theorem Slot.sessionEnd_cases (k : Slot) (h : k.Legal) :
    k.sessionEnd = Slot.free ∨ k.sessionEnd.state = .active ∧ k.sessionEnd.orphan = true ∧ k.state = .active ∧
      k.sessionEnd.bay = k.bay := by
  rw [Slot.sessionEnd_eq]
  split
  · next ha =>
    refine .inr ?_
    split
    · next ho => exact ⟨ha, ho, ha, rfl⟩
    · exact ⟨ha, rfl, ha, rfl⟩
  · split
    · next hf => exact .inl (h.1 hf)
    · exact .inl rfl

theorem Slot.legal_sessionEnd (k : Slot) (h : k.Legal) : k.sessionEnd.Legal := by
  have horphaned : k.state = .active → ({ k with orphan := true, mark := some (k.mark.getD .cancel) } : Slot).Legal := by
    obtain ⟨-, -, hdeadline, hfinal, -, -⟩ := h
    intro ha
    simp [ha] at hdeadline hfinal
    simp [Slot.Legal, ha, hdeadline, hfinal]
  rw [Slot.sessionEnd_eq]
  split
  · next ha =>
    split
    · exact h
    · exact horphaned ha
  · split
    · exact h
    · exact Slot.legal_free

theorem Slot.sessionEnd_fades (k : Slot) (h : k.Legal) : k.Fades k.sessionEnd := by
  obtain hf | ⟨-, ho, ha, hb⟩ := k.sessionEnd_cases h
  · rw [hf]; exact k.free_fades
  · exact ⟨fun _ => ⟨Slot.live_of_active ha, hb⟩, fun hk => by simp [Slot.findable, ho] at hk⟩

/-! ## Tags, live counts and queues -/

theorem State.TagsDistinct.fades {s t : State} (h : s.TagsDistinct) (hf : ∀ i, (s.slot i).Fades (t.slot i)) :
    t.TagsDistinct := by
  intro i j hi hj htag
  obtain ⟨hi', ei⟩ := (hf i).found hi
  obtain ⟨hj', ej⟩ := (hf j).found hj
  exact h i j hi' hj' (by rw [← ei, ← ej, htag])

theorem State.liveCount_le {s t : State} (hf : ∀ i, (s.slot i).Fades (t.slot i)) (b : BayNo) :
    t.liveCount b ≤ s.liveCount b := by
  refine List.countP_mono_left fun i _ hi => ?_
  simp only [Bool.and_eq_true, decide_eq_true_eq] at hi ⊢
  obtain ⟨hl, hb⟩ := (hf i).live hi.1
  exact ⟨hl, hb ▸ hi.2⟩

theorem State.LiveLimit.fades {s t : State} (h : s.LiveLimit) (hf : ∀ i, (s.slot i).Fades (t.slot i)) : t.LiveLimit :=
  fun b => (State.liveCount_le hf b).trans (h b)

/-- The queues stand and so do the WAITING jobs. -/
theorem State.QueuesLegal.congr {s t : State} (h : s.QueuesLegal) (hq : ∀ b, t.queue b = s.queue b)
    (hs : ∀ i b, (t.slot i).state = .waiting ∧ (t.slot i).bay = b ↔ (s.slot i).state = .waiting ∧ (s.slot i).bay = b) :
    t.QueuesLegal := fun b => by
  rw [hq]
  exact ⟨(h b).1, fun i => ((h b).2 i).trans (hs i b).symm⟩

/-- A job that is no longer WAITING is out of its bay's queue (R95, R118). -/
theorem State.QueuesLegal.leaves {s t : State} (h : s.QueuesLegal) {j : SlotNo}
    (hq : ∀ b, t.queue b = if b = (s.slot j).bay then (s.queue b).filter fun i => i != j else s.queue b)
    (hj : (t.slot j).state ≠ .waiting) (hother : ∀ i, i ≠ j → t.slot i = s.slot i) : t.QueuesLegal := fun b => by
  have hmem (i : SlotNo) : i ∈ t.queue b ↔ i ≠ j ∧ i ∈ s.queue b := by
    rw [hq]
    split
    · simp [and_comm]
    · next hb =>
      refine ⟨fun hi => ⟨?_, hi⟩, And.right⟩
      rintro rfl
      exact hb ((h b).2 i |>.mp hi).2.symm
  refine ⟨?_, fun i => ?_⟩
  · rw [hq]; split
    · exact (h b).1.filter _
    · exact (h b).1
  · rw [hmem]
    by_cases hi : i = j
    · subst hi; simp [hj]
    · rw [hother i hi, (h b).2 i]; simp [hi]

/-- No job is WAITING and every queue is empty. -/
theorem State.queuesLegal_of_none {t : State} (hq : ∀ b, t.queue b = []) (hs : ∀ i, (t.slot i).state ≠ .waiting) :
    t.QueuesLegal := fun b => by simp [hq, hs]

/-! ## Moves that leave the slots as they are -/

theorem State.TableLegal.congr {s t : State} (h : s.TableLegal) (hs : ∀ i, t.slot i = s.slot i)
    (hq : ∀ b, t.queue b = s.queue b)
    (hp : ∀ j, t.transmitter.pending.count (.jobDone j) = s.transmitter.pending.count (.jobDone j))
    (hu : ∀ j, (t.transmitter.unacked.map Unacked.notice).count (.jobDone j) =
      (s.transmitter.unacked.map Unacked.notice).count (.jobDone j))
    (hd : t.handler.link = .down → s.handler.link = .down ∧
      (s.transmitter.pending = [] → s.transmitter.unacked = [] →
        t.transmitter.pending = [] ∧ t.transmitter.unacked = [])) : t.TableLegal := by
  obtain ⟨⟨hslots, hqueues, hnotices, hsilent, horphans⟩, htags, hlive⟩ := h
  have hfades (i : SlotNo) : (s.slot i).Fades (t.slot i) := hs i ▸ .refl _
  refine ⟨⟨fun i => hs i ▸ hslots i, hqueues.congr hq fun i b => by rw [hs], fun j => ?_, fun hl => ?_, fun hl j => ?_⟩,
    htags.fades hfades, hlive.fades hfades⟩
  · rw [hp, hu, hs]; exact hnotices j
  · obtain ⟨hl', hempty⟩ := hd hl
    obtain ⟨hp', hu'⟩ := hsilent hl'
    exact hempty hp' hu'
  · rw [hs]; exact horphans (hd hl).1 j

theorem State.TableLegal.kept {s t : State} (h : s.TableLegal) (hk : s.TableKept t) : t.TableLegal :=
  h.congr (fun _ => by simp only [State.slot, hk.jobs]) (fun _ => by simp only [State.queue, hk.jobs]) hk.pending
    hk.unacked fun hl => by
      obtain ⟨hd, hp, hu⟩ := hk.down hl
      exact ⟨hd, fun hp' hu' => ⟨hp hp', hu hu'⟩⟩

theorem State.TableLegal.stores {s : State} (h : s.TableLegal) (m : List Host.Cell) : (s.setPool m).TableLegal :=
  h.congr (fun _ => rfl) (fun _ => rfl) (fun _ => rfl) (fun _ => rfl) fun hl => ⟨hl, fun hp hu => ⟨hp, hu⟩⟩

theorem State.tableLegal_hardwareReset (s : State) (cause : ResetCause) (straps : BitVec 2) :
    (s.hardwareReset cause straps).TableLegal :=
  State.reset_tableLegal.congr (fun _ => rfl) (fun _ => rfl) (fun _ => rfl) (fun _ => rfl)
    fun hl => ⟨hl, fun hp hu => ⟨hp, hu⟩⟩

/-! ## Moves of one slot -/

/-- A live job ends: done with its notice pending, or freed where it is an orphan (R95). -/
theorem State.TableLegal.ends {s : State} (h : s.TableLegal) {j : SlotNo} (hj : (s.slot j).live = true)
    (st : JobStatus) (o n : Nat) : (s.endJob j st o n).TableLegal := by
  obtain ⟨⟨hslots, hqueues, hnotices, hsilent, horphans⟩, htags, hlive⟩ := h
  have hother (i : SlotNo) (hi : i ≠ j) : (s.endJob j st o n).slot i = s.slot i := by rw [State.endJob_slot, if_neg hi]
  have hself : (s.endJob j st o n).slot j = (s.slot j).ended st o n := by rw [State.endJob_slot, if_pos rfl]
  have hfades (i : SlotNo) : (s.slot i).Fades ((s.endJob j st o n).slot i) := by
    by_cases hi : i = j
    · rw [hi, hself]; exact Slot.ended_fades _ st o n hj
    · rw [hother i hi]; exact .refl _
  have hstate : (s.slot j).state = .waiting ∨ (s.slot j).state = .active := (s.slot j).live_iff.mp hj
  have hlink : (s.endJob j st o n).handler.link = s.handler.link := by simp
  -- with the link DOWN a live job is an orphan
  have hdown (hl : s.handler.link = .down) : (s.slot j).orphan = true := by
    rcases horphans hl j with hf | ⟨-, ho⟩
    · simp [hf] at hstate
    · exact ho
  refine ⟨⟨fun i => ?_, ?_, fun i => ?_, fun hl => ?_, fun hl i => ?_⟩, htags.fades hfades, hlive.fades hfades⟩
  · by_cases hi : i = j
    · rw [hi, hself]; exact Slot.legal_ended _ st o n
    · rw [hother i hi]; exact hslots i
  · refine hqueues.leaves (fun b => State.endJob_queue s j b st o n) ?_ hother
    rw [hself, Slot.ended_state]; split <;> nofun
  · obtain ⟨hp, hu⟩ := hnotices i
    rw [State.endJob_transmitter]
    by_cases hi : i = j
    · subst hi
      rw [hself, Slot.ended_state]
      rcases hstate with hs | hs <;> split <;> simp_all
    · rw [hother i hi]
      split
      · exact ⟨hp, hu⟩
      · simpa [List.count_append, Ne.symm hi] using ⟨hp, hu⟩
  · rw [hlink] at hl
    rw [State.endJob_transmitter, if_pos (hdown hl)]
    exact hsilent hl
  · rw [hlink] at hl
    by_cases hi : i = j
    · rw [hi, hself, Slot.ended_of_orphan _ st o n (hdown hl)]; exact .inl rfl
    · rw [hother i hi]; exact horphans hl i

/-- The WAITING jobs of a bay end one after another (R103). -/
theorem State.TableLegal.endsAll {st : JobStatus} {l : List SlotNo} : ∀ {s : State}, s.TableLegal → l.Nodup →
    (∀ j ∈ l, (s.slot j).live = true) → (l.foldl (fun t j => t.endJob j st 0 0) s).TableLegal := by
  induction l with
  | nil => exact fun h _ _ => h
  | cons j l ih =>
    intro s h hnodup hlive
    obtain ⟨hj, hl⟩ := List.nodup_cons.mp hnodup
    refine ih (h.ends (hlive j (by simp)) st 0 0) hl fun i hi => ?_
    rw [State.endJob_slot, if_neg (by rintro rfl; exact hj hi)]
    exact hlive i (by simp [hi])

theorem State.TableLegal.endsQueue {s : State} (h : s.TableLegal) (b : BayNo) (st : JobStatus) :
    (s.endQueue b st).TableLegal := by
  obtain ⟨hnodup, hmem, -⟩ := h.1.queue b
  exact h.endsAll hnodup fun j hj => Slot.live_of_waiting ((hmem j).mp hj).1

/-- The mark of an ACTIVE job is set (R103, R107). -/
theorem State.TableLegal.marks {s : State} (h : s.TableLegal) {j : SlotNo} (ha : (s.slot j).state = .active)
    (m : Option AbortMark) : (s.setSlot j ((s.slot j).marked m)).TableLegal := by
  obtain ⟨⟨hslots, hqueues, hnotices, hsilent, horphans⟩, htags, hlive⟩ := h
  have hslot (i : SlotNo) : (s.setSlot j ((s.slot j).marked m)).slot i =
      { s.slot i with mark := if i = j then (s.slot j).mark.or m else (s.slot i).mark } := by
    rw [State.setSlot_slot]
    split
    · next hi => subst hi; rfl
    · rfl
  have hfades (i : SlotNo) : (s.slot i).Fades ((s.setSlot j ((s.slot j).marked m)).slot i) := by
    rw [hslot]; exact ⟨fun hl => ⟨hl, rfl⟩, fun hf => ⟨hf, rfl⟩⟩
  refine ⟨⟨fun i => ?_, hqueues.congr (fun _ => rfl) fun i b => ?_, fun i => ?_, hsilent, fun hl i => ?_⟩,
    htags.fades hfades, hlive.fades hfades⟩
  · rw [State.setSlot_slot]
    split
    · exact Slot.legal_marked _ m (hslots j) ha
    · exact hslots i
  · rw [hslot]
  · rw [hslot]; exact hnotices i
  · rw [hslot]; exact horphans hl i

/-- The head of a queue is granted the bus (R118). -/
theorem State.TableLegal.grants {s : State} (h : s.TableLegal) {j : SlotNo} (hw : (s.slot j).state = .waiting) :
    State.TableLegal
      ((s.setSlot j (s.slot j).granted).setQueue (s.slot j).bay ((s.queue (s.slot j).bay).filter fun i => i != j)) := by
  obtain ⟨⟨hslots, hqueues, hnotices, hsilent, horphans⟩, htags, hlive⟩ := h
  have ho : (s.slot j).orphan = false := Bool.eq_false_iff.mpr fun ho => by simp [(hslots j).2.1 ho] at hw
  generalize ht : (s.setSlot j (s.slot j).granted).setQueue (s.slot j).bay
    ((s.queue (s.slot j).bay).filter fun i => i != j) = t
  have hslot (i : SlotNo) : t.slot i = if i = j then (s.slot j).granted else s.slot i := by
    rw [← ht, State.setQueue_slot, State.setSlot_slot]
  have hfades (i : SlotNo) : (s.slot i).Fades (t.slot i) := by
    rw [hslot]
    split
    · next hi =>
      subst hi
      exact ⟨fun _ => ⟨Slot.live_of_waiting hw, rfl⟩, fun _ => ⟨Slot.findable_iff _ |>.mpr ⟨by simp [hw], ho⟩, rfl⟩⟩
    · exact .refl _
  have htr : t.transmitter = s.transmitter := by rw [← ht]; rfl
  have hlink : t.handler.link = s.handler.link := by rw [← ht]; rfl
  refine ⟨⟨fun i => ?_, ?_, fun i => ?_, fun hl => ?_, fun hl i => ?_⟩, htags.fades hfades, hlive.fades hfades⟩
  · rw [hslot]
    split
    · exact Slot.legal_granted _ (hslots j) hw
    · exact hslots i
  · refine hqueues.leaves (j := j) (fun b => ?_) ?_ fun i hi => by rw [hslot, if_neg hi]
    · rw [← ht, State.setQueue_queue]
      split
      · next hb => rw [hb]
      · rfl
    · rw [hslot, if_pos rfl]; nofun
  · rw [htr, hslot]
    split
    · next hi => subst hi; simpa [hw, Slot.granted] using hnotices i
    · exact hnotices i
  · rw [htr]; exact hsilent (hlink ▸ hl)
  · rcases horphans (hlink ▸ hl) j with hf | ⟨hf, -⟩ <;> simp [hf] at hw

/-! ## A job accepted -/

/-- Two tests that differ at one place only count one apart at most. -/
theorem countP_le_succ {α : Type} {p q : α → Bool} {j : α} (h : ∀ i, i ≠ j → q i = p i) :
    ∀ {l : List α}, l.Nodup → l.countP q ≤ l.countP p + 1
  | [], _ => Nat.zero_le _
  | a :: l, hn => by
    obtain ⟨ha, hl⟩ := List.nodup_cons.mp hn
    rw [List.countP_cons, List.countP_cons]
    by_cases haj : a = j
    · have : l.countP q = l.countP p := List.countP_congr fun i hi => by rw [h i (by rintro rfl; exact ha (haj ▸ hi))]
      split <;> split <;> omega
    · have := countP_le_succ h hl
      rw [h a haj]
      omega

theorem State.submitRefusal?_none (s : State) (x : SubmitFields) (h : s.submitRefusal? x = none) :
    s.findTag x.tag = none ∧ s.liveCount x.bay < 8 := by
  unfold State.submitRefusal? at h
  split_ifs at h with _ _ _ htag hlive
  exact ⟨Option.not_isSome_iff_eq_none.mp htag, not_le.mp hlive⟩

/-- A SUBMIT is accepted: its slot was FREE, its tag no other's, and its bay had room (R92, R99, R100). -/
theorem State.TableLegal.accepts {s : State} (h : s.TableLegal) {j : SlotNo} {x : SubmitFields}
    (hl : s.handler.link ≠ .down) (hj : s.freeSlot? = some j) (hx : s.submitRefusal? x = none) :
    (s.acceptJob j x).TableLegal := by
  obtain ⟨⟨hslots, hqueues, hnotices, hsilent, horphans⟩, htags, hlive⟩ := h
  obtain ⟨htag, hroom⟩ := s.submitRefusal?_none x hx
  have hfree := s.freeSlot?_state j hj
  generalize hk : x.slot (s.freeBlocks.take (blocksNeeded x.outData.length x.inLimit)) = k
  have hslot (i : SlotNo) : (s.acceptJob j x).slot i = if i = j then k else s.slot i := hk ▸ s.acceptJob_slot j i x
  have hother (i : SlotNo) (hi : i ≠ j) : (s.acceptJob j x).slot i = s.slot i := by rw [hslot, if_neg hi]
  have hself : (s.acceptJob j x).slot j = k := by rw [hslot, if_pos rfl]
  have hqueue (b : BayNo) : (s.acceptJob j x).queue b = if b = x.bay then s.queue b ++ [j] else s.queue b := by
    simp only [State.acceptJob, State.reportLive_frame, State.setQueue_queue]
    split
    · next hb => subst hb; rfl
    · rfl
  have htr : (s.acceptJob j x).transmitter = s.transmitter := rfl
  have hwait : k.state = .waiting := by rw [← hk]; rfl
  have hbay : k.bay = x.bay := by rw [← hk]; rfl
  have hktag : k.tag = x.tag := by rw [← hk]; rfl
  -- no slot that a tag finds carries the tag of the accepted job
  have hnew (i : SlotNo) (hi : (s.slot i).findable = true) : (s.slot i).tag ≠ k.tag := fun e => by
    rw [State.findTag, List.find?_eq_none] at htag
    exact htag i (List.mem_finRange i) (by simp [hi, e, hktag])
  refine ⟨⟨fun i => ?_, fun b => ?_, fun i => ?_, fun hd => absurd hd hl, fun hd => absurd hd hl⟩, fun i i' hi hi' e => ?_,
    fun b => ?_⟩
  · rw [hslot]
    split
    · rw [← hk]; simp [Slot.Legal, SubmitFields.slot, Slot.free]
    · exact hslots i
  · obtain ⟨hnodup, hmem⟩ := hqueues b
    have hnot : j ∉ s.queue b := fun hin => by simpa [hfree] using ((hmem j).mp hin).1
    rw [hqueue]
    split
    · next hb =>
      refine ⟨List.nodup_append.mpr ⟨hnodup, List.nodup_singleton j, ?_⟩, fun i => ?_⟩
      · rintro a ha _ hj' rfl
        exact hnot (List.mem_singleton.mp hj' ▸ ha)
      · by_cases hij : i = j
        · simp [hij, hself, hwait, hbay, hb]
        · simp [hij, hother i hij, hmem]
    · next hb =>
      refine ⟨hnodup, fun i => ?_⟩
      by_cases hij : i = j
      · simp [hij, hnot, hself, hbay, Ne.symm hb]
      · rw [hother i hij, hmem]
  · rw [hslot, htr]
    split
    · next hi => subst hi; simpa [hfree, hwait] using hnotices i
    · exact hnotices i
  · by_cases hij : i = j <;> by_cases hij' : i' = j
    · exact hij.trans hij'.symm
    · rw [hij, hself, hother i' hij'] at e
      exact absurd e.symm (hnew i' (hother i' hij' ▸ hi'))
    · rw [hij', hself, hother i hij] at e
      exact absurd e (hnew i (hother i hij ▸ hi))
    · rw [hother i hij, hother i' hij'] at e
      exact htags i i' (hother i hij ▸ hi) (hother i' hij' ▸ hi') e
  · by_cases hb : b = x.bay
    · have hle : (s.acceptJob j x).liveCount b ≤ s.liveCount b + 1 :=
        countP_le_succ (j := j) (fun i hi => by rw [hother i hi]) (List.nodup_finRange 32)
      rw [hb] at hle ⊢
      omega
    · refine le_trans (List.countP_mono_left fun i _ hi => ?_) (hlive b)
      have hij : i ≠ j := by
        rintro rfl
        simp [hself, hbay, Ne.symm hb] at hi
      rwa [hother i hij] at hi

/-! ## Notices sent and removed -/

/-- A pending notice stands in no list with the link DOWN. -/
theorem State.DownSilent.link {s : State} (h : s.DownSilent) {x : Notice} {rest : List Notice}
    (hx : s.transmitter.pending = x :: rest) : s.handler.link ≠ .down := fun hd => by
  have := (h hd).1
  simp [hx] at this

theorem State.sendNotice_lists (s : State) (x : Notice) (rest : List Notice) :
    (s.sendNotice x rest).transmitter.pending = rest ∧
      (s.sendNotice x rest).transmitter.unacked.map Unacked.notice =
        s.transmitter.unacked.map Unacked.notice ++ [x] ∧
      (∀ b, (s.sendNotice x rest).queue b = s.queue b) ∧
      (s.sendNotice x rest).handler.link = s.handler.link := by
  cases x <;> exact ⟨rfl, List.map_append, fun _ => rfl, rfl⟩

/-- The pending head is sent: a job's slot becomes DONE-SENT as its notice moves (R96, R169). -/
theorem State.TableLegal.sends {s : State} (h : s.TableLegal) {x : Notice} {rest : List Notice}
    (hx : s.transmitter.pending = x :: rest) : (s.sendNotice x rest).TableLegal := by
  obtain ⟨⟨hslots, hqueues, hnotices, hsilent, -⟩, htags, hlive⟩ := h
  obtain ⟨hp, hu, hq, hlink⟩ := s.sendNotice_lists x rest
  have hl : (s.sendNotice x rest).handler.link ≠ .down := hlink ▸ hsilent.link hx
  -- the slot of the notice sent is DONE-PENDING
  have hdone (i : SlotNo) (hi : x = .jobDone i) : (s.slot i).state = .donePending := by
    by_contra hne
    have := (hnotices i).1
    simp [hx, hi, hne] at this
  have hslot := s.sendNotice_slot x rest
  have hfades (i : SlotNo) : (s.slot i).Fades ((s.sendNotice x rest).slot i) := by
    rw [hslot]
    split
    · next hi =>
      have hd := hdone i hi
      refine ⟨fun hk => by simp [Slot.live] at hk, fun hk => ?_⟩
      exact ⟨(Slot.findable_iff _).mpr ⟨by simp [hd], ((Slot.findable_iff _).mp hk).2⟩, rfl⟩
    · exact .refl _
  refine ⟨⟨fun i => ?_, hqueues.congr hq fun i b => ?_, fun i => ?_, fun hd => absurd hd hl, fun hd => absurd hd hl⟩,
    htags.fades hfades, hlive.fades hfades⟩
  · rw [hslot]
    split
    · next hi => exact Slot.legal_sent _ (hslots i) (hdone i hi)
    · exact hslots i
  · rw [hslot]
    split
    · next hi => simp [hdone i hi]
    · rfl
  · obtain ⟨hpend, hsent⟩ := hnotices i
    rw [hp, hu, hslot, List.count_append, hsent]
    rw [hx, List.count_cons] at hpend
    split
    · next hi => simpa [hi, hdone i hi] using hpend
    · next hi => simpa [hi] using hpend

/-- What the removals of an ACK do beside the slots they free: event notices may join the pending list (R142, R171). -/
theorem State.noticesRemoved_lists (l : List Unacked) : ∀ s : State,
    let t := l.foldl (fun t u => t.noticeRemoved u.notice) s
    (∀ j, t.transmitter.pending.count (.jobDone j) = s.transmitter.pending.count (.jobDone j)) ∧
      (∀ b, t.queue b = s.queue b) ∧ t.handler = s.handler := by
  induction l with
  | nil => exact fun s => ⟨fun _ => rfl, fun _ => rfl, rfl⟩
  | cons u l ih =>
    intro s t
    obtain ⟨hp, hq, hh⟩ := ih (s.noticeRemoved u.notice)
    have hone : (∀ j, (s.noticeRemoved u.notice).transmitter.pending.count (.jobDone j) =
          s.transmitter.pending.count (.jobDone j)) ∧
        (∀ b, (s.noticeRemoved u.notice).queue b = s.queue b) ∧ (s.noticeRemoved u.notice).handler = s.handler := by
      cases u.notice with
      | jobDone j => exact ⟨fun _ => rfl, fun _ => rfl, rfl⟩
      | event n => exact ⟨(s.eventRemoved_kept n).pending, by simp [State.noticeRemoved], by simp [State.noticeRemoved]⟩
    obtain ⟨hp', hq', hh'⟩ := hone
    exact ⟨fun j => (hp j).trans (hp' j), fun b => (hq b).trans (hq' b), hh.trans hh'⟩

theorem State.removeUpTo_lists (s : State) (n : Nat) :
    (∀ j, (s.removeUpTo n).transmitter.pending.count (.jobDone j) = s.transmitter.pending.count (.jobDone j)) ∧
      (s.removeUpTo n).transmitter.unacked = s.transmitter.unacked.drop (n + 1) ∧
      (∀ b, (s.removeUpTo n).queue b = s.queue b) ∧ (s.removeUpTo n).handler = s.handler := by
  generalize hs : s.setTransmitter
    { s.transmitter with unacked := s.transmitter.unacked.drop (n + 1), retries := 0 } = s1
  obtain ⟨hp, hq, hh⟩ := State.noticesRemoved_lists (s.transmitter.unacked.take (n + 1)) s1
  obtain ⟨-, -, hu, -⟩ := noticesRemoved_frame (s.transmitter.unacked.take (n + 1)) s1
  simp only [State.removeUpTo, hs]
  subst hs
  exact ⟨hp, hu, hq, hh⟩

/-- The entries that an ACK names leave, each freeing its slot (R97, R171). -/
theorem State.TableLegal.acks {s : State} (h : s.TableLegal) (n : Nat) : (s.removeUpTo n).TableLegal := by
  obtain ⟨⟨hslots, hqueues, hnotices, hsilent, horphans⟩, htags, hlive⟩ := h
  obtain ⟨hp, hu, hq, hh⟩ := s.removeUpTo_lists n
  have hslot := s.removeUpTo_slot n
  -- what leaves and what stays of a job's notices
  have hcount (i : SlotNo) : (s.transmitter.unacked.map Unacked.notice).count (.jobDone i) =
      ((s.transmitter.unacked.take (n + 1)).map Unacked.notice).count (.jobDone i) +
        ((s.transmitter.unacked.drop (n + 1)).map Unacked.notice).count (.jobDone i) := by
    rw [← List.count_append, ← List.map_append, List.take_append_drop]
  have hgone (i : SlotNo) (hi : .jobDone i ∈ (s.transmitter.unacked.take (n + 1)).map Unacked.notice) :
      (s.slot i).state = .doneSent ∧
        ((s.transmitter.unacked.drop (n + 1)).map Unacked.notice).count (.jobDone i) = 0 := by
    have hsent := (hnotices i).2
    have := List.count_pos_iff.mpr hi
    rw [hcount] at hsent
    split at hsent
    · next hs => exact ⟨hs, by omega⟩
    · omega
  have hfades (i : SlotNo) : (s.slot i).Fades ((s.removeUpTo n).slot i) := by
    rw [hslot]
    split
    · exact Slot.free_fades _
    · exact .refl _
  refine ⟨⟨fun i => ?_, hqueues.congr hq fun i b => ?_, fun i => ?_, fun hd => ?_, fun hd i => ?_⟩,
    htags.fades hfades, hlive.fades hfades⟩
  · rw [hslot]
    split
    · exact Slot.legal_free
    · exact hslots i
  · rw [hslot]
    split
    · next hi => simp [(hgone i hi).1, Slot.free]
    · rfl
  · obtain ⟨hpend, hsent⟩ := hnotices i
    rw [hp, hu, hslot]
    split
    · next hi =>
      obtain ⟨hs, hzero⟩ := hgone i hi
      exact ⟨by simpa [hs, Slot.free] using hpend, hzero⟩
    · next hi =>
      rw [hcount, List.count_eq_zero_of_not_mem hi, zero_add] at hsent
      exact ⟨hpend, hsent⟩
  · obtain ⟨hpend, hunacked⟩ := hsilent (hh ▸ hd)
    refine ⟨?_, by rw [hu, hunacked]; rfl⟩
    simp [State.removeUpTo, hunacked, hpend]
  · rw [hslot]
    split
    · exact .inl rfl
    · exact horphans (hh ▸ hd) i

/-! ## The end of a session, and time -/

/-- A session end leaves orphans only, no notice and no queue (R112, R163). -/
theorem State.TableLegal.sessionEnds {s : State} (h : s.TableLegal) (kept : List QueuedReply) :
    (s.endSession kept).TableLegal := by
  obtain ⟨⟨hslots, -⟩, htags, hlive⟩ := h
  obtain ⟨heq, -, hqueue, -⟩ := s.endSession_spec kept
  have htr : (s.endSession kept).transmitter.pending = [] ∧ (s.endSession kept).transmitter.unacked = [] := by
    rw [heq]; exact ⟨rfl, rfl⟩
  have hcases (i : SlotNo) := Slot.sessionEnd_cases _ (hslots i)
  have hfades (i : SlotNo) : (s.slot i).Fades ((s.endSession kept).slot i) := by
    rw [State.endSession_slot]; exact Slot.sessionEnd_fades _ (hslots i)
  refine ⟨⟨fun i => ?_, State.queuesLegal_of_none hqueue fun i => ?_, fun i => ?_, fun _ => htr, fun _ i => ?_⟩,
    htags.fades hfades, hlive.fades hfades⟩
  · rw [State.endSession_slot]; exact Slot.legal_sessionEnd _ (hslots i)
  · rw [State.endSession_slot]
    obtain hf | ⟨ha, -⟩ := hcases i
    · rw [hf]; nofun
    · rw [ha]; nofun
  · rw [htr.1, htr.2, State.endSession_slot]
    obtain hf | ⟨ha, -⟩ := hcases i
    · simp [hf, Slot.free]
    · simp [ha]
  · rw [State.endSession_slot]
    obtain hf | ⟨ha, ho, -⟩ := hcases i
    · exact .inl (hf ▸ rfl)
    · exact .inr ⟨ha, ho⟩

/-- Time runs on the deadlines of WAITING jobs only (R105). -/
theorem State.TableLegal.ticks {s : State} (h : s.TableLegal) : s.tick.TableLegal := by
  obtain ⟨⟨hslots, hqueues, hnotices, hsilent, horphans⟩, htags, hlive⟩ := h
  have hslot := s.tick_slot
  have hfades (i : SlotNo) : (s.slot i).Fades (s.tick.slot i) := by
    rw [hslot]; exact ⟨fun hl => ⟨hl, rfl⟩, fun hf => ⟨hf, rfl⟩⟩
  refine ⟨⟨fun i => hslot i ▸ Slot.legal_tick _ (hslots i), hqueues.congr (fun b => ?_) fun i b => ?_, fun i => ?_, hsilent,
    fun hd i => ?_⟩, htags.fades hfades, hlive.fades hfades⟩
  · simp only [State.tick, State.queue]
  · rw [hslot]; rfl
  · rw [hslot]; exact hnotices i
  · rw [hslot]; exact horphans hd i

/-! ## Every step -/

theorem TableMove.tableLegal {s t : State} (m : TableMove s t) (h : s.TableLegal) : t.TableLegal := by
  cases m with
  | kept hk => exact h.kept hk
  | ends j st o n hj => exact h.ends hj st o n
  | endsQueue b st => exact h.endsQueue b st
  | marks j m ha => exact h.marks ha m
  | accepts j x hl hj hx => exact h.accepts hl hj hx
  | grants j b hfree hq =>
    obtain ⟨-, hmem, -⟩ := h.1.queue b
    exact h.grants ((hmem j).mp (List.mem_of_mem_head? hq)).1
  | stores blocks i l => exact h.stores _
  | sends x rest hx => exact h.sends hx
  | acks n => exact h.acks n
  | sessionEnds kept => exact h.sessionEnds kept
  | resets cause straps => exact s.tableLegal_hardwareReset cause straps
  | ticks => exact h.ticks

/-- Settles O57: each move of the Job Table keeps its laws, and a step is a chain of moves. -/
theorem jobTableStaysLegal : Obligations.JobTableStaysLegal :=
  fun _ _ h hstep => step_keeps (fun _ _ m => m.tableLegal) h hstep

end Sys2Proof.Machine
end

section
/-! PROOFS. The end of a job by its ending report and by its deadline (R105, R122), and the requests CANCEL and JOB-STATUS
(R106 to R108, R111). -/

namespace Sys2Proof.Machine

open Sys2Proof.Claims

/-! ## Ending reports and deadlines -/

theorem Report.jobEndingOf?_eq_none (j : SlotNo) (r : Report) (h : ∀ x o n, r ≠ .jobEnding j x o n) :
    r.jobEndingOf? j = none := by
  cases r with
  | jobEnding i x o n =>
    unfold Report.jobEndingOf?
    refine if_neg ?_
    rintro rfl
    exact h x o n rfl
  | _ => rfl

/-- An ending report of a job that is not ACTIVE leaves it as it is (R122). -/
theorem State.takeJobEnding_of_not_active (s : State) (j : SlotNo) (x : Ending) (o n : Nat)
    (h : (s.slot j).state ≠ .active) : s.takeJobEnding j x o n = s := if_neg h

/-- An ending whose status R122 gives ends the ACTIVE job with it. -/
theorem State.takeJobEnding_ends (s : State) (j : SlotNo) (x : Ending) (o n : Nat) (ha : (s.slot j).state = .active)
    {st : JobStatus} (hst : finalStatus? x (s.slot j).mark = some st) :
    JobEnds j st o n (timeoutCounted s (s.slot j).bay x) (s.takeJobEnding j x o n) := by
  rw [State.takeJobEnding, if_pos ha, hst, ← State.countTimeout_eq]
  exact State.endJob_spec _ j st o n

/-- An ending whose status R122 leaves open ends the ACTIVE job with a free value (assumption log 5). -/
theorem State.takeJobEnding_unmarked (s : State) (j : SlotNo) (x : Ending) (o n : Nat)
    (ha : (s.slot j).state = .active) (hst : finalStatus? x (s.slot j).mark = none) :
    ∃ st, JobEnds j st o n { timeoutCounted s (s.slot j).bay x with freeDraws := s.freeDraws + 1 }
      (s.takeJobEnding j x o n) := by
  have hdraws : (s.countTimeout (s.slot j).bay x).freeDraws = s.freeDraws := by simp
  rw [State.takeJobEnding, if_pos ha, hst, ← State.countTimeout_eq, ← hdraws]
  exact ⟨_, State.endJob_spec _ j _ o n⟩

/-- Settles the first part of O38: R122's table, ending by ending. -/
theorem jobEndingGivesFinalStatus : Claims.JobEndingGivesFinalStatus := by
  intro s j pre post x o n hh hpre
  refine ⟨(s.setHanded (pre ++ post)).takeJobEnding j x o n, ?_, ?_⟩
  · refine congrArg Host.Outcome.next (s.takeReport_oldest (Report.jobEndingOf? j) _ pre post _ ⟨x, o, n⟩ hh ?_ ?_)
    · exact if_pos rfl
    · exact fun y hy => Report.jobEndingOf?_eq_none j y fun z o' n' hz => hpre z o' n' (hz ▸ hy)
  · intro k u v
    have ends {st : JobStatus} (ha : k.state = .active) (hst : finalStatus? x k.mark = some st) :
        JobEnds j st o n v (u.takeJobEnding j x o n) := u.takeJobEnding_ends j x o n ha hst
    refine ⟨u.takeJobEnding_of_not_active j x o n, ?_, ?_, ?_, ?_, ?_, ?_, ?_⟩
    case refine_6 =>
      rintro m ha hx hm
      refine ends ha ?_
      rcases hx with rfl | rfl <;> simp [finalStatus?, hm, AbortMark.status_eq]
    case refine_7 =>
      rintro ha hx hm
      refine u.takeJobEnding_unmarked j x o n ha ?_
      rcases hx with rfl | rfl <;> exact congrArg (Option.map AbortMark.status) hm
    all_goals
      rintro ha rfl
      exact ends ha rfl

/-- Settles the second part of O38. -/
theorem deadlineExpiryEndsJob : Claims.DeadlineExpiryEndsJob := fun s j hw hd =>
  ⟨s.endJob j .expired 0 0, congrArg Host.Outcome.next (if_pos ⟨hw, hd⟩), s.endJob_spec j .expired 0 0⟩

/-- Settles O38. -/
theorem jobsEndWithFinalStatus : Obligations.JobsEndWithFinalStatus :=
  ⟨jobEndingGivesFinalStatus, deadlineExpiryEndsJob⟩

/-! ## CANCEL -/

/-- A request that executes is answered with what its service answers. -/
theorem State.request_answered (s u : State) (f : Frame) (serve : State → Served) (hx : Executes s f) (x : Status)
    (l : List Byte) (ha : serve (s.popArrival f) = (u, x, l)) (h : x.granted = true ∨ l = []) :
    AnsweredFrom u (s.request f true serve) f x.code l := by
  rw [executes_request s f true serve hx _ ha rfl]
  exact State.answer_spec u f x l h

theorem State.serveCancel_of_carries (s : State) (j : SlotNo) (tag : Word16) (hd : s.TagsDistinct)
    (h : Carries s j tag) : s.serveCancel [hi tag, lo tag] = s.cancelSlot j := by
  simp only [State.serveCancel, wordAt_hi_lo, State.findTag_some s tag j hd h]

theorem State.serveCancel_of_none (s : State) (tag : Word16) (h : ∀ j, ¬Carries s j tag) :
    s.serveCancel [hi tag, lo tag] = s.refused .notFound := by
  simp only [State.serveCancel, wordAt_hi_lo, State.findTag_none s tag h]

theorem State.cancelSlot_waiting (s : State) (j : SlotNo) (h : (s.slot j).state = .waiting) :
    s.cancelSlot j = (s.endJob j .canceled 0 0, .ok, []) := by simp only [State.cancelSlot, h]

/-- An ACTIVE job with no mark takes the mark CANCEL, and an abort is asked for (R107). -/
theorem State.cancelSlot_unmarked (s : State) (j : SlotNo) (h : (s.slot j).state = .active)
    (hm : (s.slot j).mark = none) :
    s.cancelSlot j =
      ((s.setSlot j { s.slot j with mark := some .cancel }).hand (.abortRequest (.job j)), .accepted, []) := by
  simp only [State.cancelSlot, h, State.cancelActive, hm, Option.isNone_none, if_true, Slot.marked, Option.none_or]

theorem State.cancelSlot_marked (s : State) (j : SlotNo) (h : (s.slot j).state = .active)
    (hm : (s.slot j).mark ≠ none) : s.cancelSlot j = s.refused .accepted := by
  have hm' : (s.slot j).mark.isNone = false := by simpa [Option.isSome_iff_ne_none] using hm
  simp only [State.cancelSlot, h, State.cancelActive, hm', Bool.false_eq_true, if_false, State.refused]

theorem State.cancelSlot_done (s : State) (j : SlotNo)
    (h : (s.slot j).state = .donePending ∨ (s.slot j).state = .doneSent) : s.cancelSlot j = s.refused .tooLate := by
  rcases h with h | h <;> simp only [State.cancelSlot, h]

/-- Settles O41: the slot that carries the tag, by its state. -/
theorem cancelActsBySlotState : Obligations.CancelActsBySlotState := by
  intro q tag s hd f s1 hx
  have hslot (j : SlotNo) : s1.slot j = s.slot j := by simp [s1]
  have hcarries (j : SlotNo) : Carries s1 j tag ↔ Carries s j tag := by simp [Carries, hslot]
  have hd1 : s1.TagsDistinct := by simpa [State.TagsDistinct, hslot] using hd
  have answers (u : State) (x : Status) (h : s1.serveCancel f.payload = (u, x, [])) :=
    s.request_answered u f (fun t => t.serveCancel f.payload) hx x [] h (.inr rfl)
  refine ⟨s.request f true fun t => t.serveCancel f.payload, rfl, fun hn => ?_, fun j hj => ?_⟩
  · exact answers s1 .notFound (s1.serveCancel_of_none tag fun j => (hcarries j).not.mpr (hn j))
  · have serve := s1.serveCancel_of_carries j tag hd1 ((hcarries j).mpr hj)
    refine ⟨fun hw => ?_, fun ha hm => ?_, fun ha hm => ?_, fun hdone => ?_⟩
    · exact ⟨_, s1.endJob_spec j .canceled 0 0,
        answers _ .ok (serve.trans (s1.cancelSlot_waiting j (hslot j ▸ hw)))⟩
    · rw [← hslot j, show s.handed = s1.handed by simp [s1]]
      exact answers _ .accepted (serve.trans (s1.cancelSlot_unmarked j (hslot j ▸ ha) (hslot j ▸ hm)))
    · exact answers s1 .accepted (serve.trans (s1.cancelSlot_marked j (hslot j ▸ ha) (hslot j ▸ hm)))
    · exact answers s1 .tooLate (serve.trans (s1.cancelSlot_done j (hslot j ▸ hdone)))

/-! ## JOB-STATUS -/

theorem State.serveJobStatus_of_carries (s : State) (j : SlotNo) (tag : Word16) (hd : s.TagsDistinct)
    (h : Carries s j tag) : s.serveJobStatus [hi tag, lo tag] = (s, .ok, s.jobStatusFields j) := by
  simp only [State.serveJobStatus, wordAt_hi_lo, State.findTag_some s tag j hd h]

theorem State.serveJobStatus_of_none (s : State) (tag : Word16) (h : ∀ j, ¬Carries s j tag) :
    s.serveJobStatus [hi tag, lo tag] = s.refused .notFound := by
  simp only [State.serveJobStatus, wordAt_hi_lo, State.findTag_none s tag h]

theorem State.jobStatusFields_popArrival (s : State) (f : Frame) (j : SlotNo) :
    (s.popArrival f).jobStatusFields j = s.jobStatusFields j := by simp [State.jobStatusFields]

theorem JobKind.code_eq (k : JobKind) : k.code = if k = .write then 0x00 else 0x01 := by cases k <;> rfl

/-- The fields for a WAITING job: its place in its bay's queue and the time left (R111, R192). -/
theorem State.jobStatusFields_waiting (s : State) (j : SlotNo) (h : (s.slot j).state = .waiting) :
    s.jobStatusFields j =
      [0x01, byteOf (s.slot j).bay.val, (s.slot j).channel, (s.slot j).kind.code] ++
        [byteOf ((s.queue (s.slot j).bay).idxOf j)] ++ timeBytes (s.slot j).deadline ++ [0xFF, 0xFF, 0x00, 0x00] := by
  simp [State.jobStatusFields, h, SlotState.code, orAbsent, byteOf]

/-- The fields for an ACTIVE job: its abort mark (R111, R192). -/
theorem State.jobStatusFields_active (s : State) (j : SlotNo) (h : (s.slot j).state = .active) :
    s.jobStatusFields j =
      [0x02, byteOf (s.slot j).bay.val, (s.slot j).channel, (s.slot j).kind.code] ++
        [0xFF, 0x00, 0x00, orAbsent (fun m => jobStatusCode (markStatus m)) (s.slot j).mark, 0xFF, 0x00, 0x00] := by
  simp [AbortMark.status_eq, State.jobStatusFields, h, SlotState.code, orAbsent, byteOf, timeBytes, two, hi, lo]

/-- The fields for a done job: its final status and counts (R111, R192). -/
theorem State.jobStatusFields_done (s : State) (j : SlotNo)
    (h : (s.slot j).state = .donePending ∨ (s.slot j).state = .doneSent) :
    s.jobStatusFields j =
      [(if (s.slot j).state = .donePending then 0x03 else 0x04), byteOf (s.slot j).bay.val, (s.slot j).channel,
          (s.slot j).kind.code] ++
        [0xFF, 0x00, 0x00, 0xFF, orAbsent jobStatusCode (s.slot j).final, byteOf (s.slot j).bytesOut,
          byteOf (s.slot j).bytesIn] := by
  rcases h with h | h <;>
    simp [State.jobStatusFields, h, SlotState.code, orAbsent, timeBytes, two, hi, lo]

/-- Settles O42: the layout of R192 for the state of the slot that carries the tag. -/
theorem jobStatusChangesNothing : Obligations.JobStatusChangesNothing := by
  intro q tag s hd f s1 hx
  have hslot (j : SlotNo) : s1.slot j = s.slot j := by simp [s1]
  have hcarries (j : SlotNo) : Carries s1 j tag ↔ Carries s j tag := by simp [Carries, hslot]
  have hd1 : s1.TagsDistinct := by simpa [State.TagsDistinct, hslot] using hd
  have answered := s.request_answered s1 f (fun t => t.serveJobStatus f.payload) hx
  refine ⟨s.request f true fun t => t.serveJobStatus f.payload, rfl, fun hn => ?_, fun j hj => ?_⟩
  · exact answered .notFound [] (s1.serveJobStatus_of_none tag fun j => (hcarries j).not.mpr (hn j)) (.inr rfl)
  · have found : AnsweredFrom s1 _ f 0x00 (s.jobStatusFields j) := s.jobStatusFields_popArrival f j ▸
      answered .ok _ (s1.serveJobStatus_of_carries j tag hd1 ((hcarries j).mpr hj)) (.inl rfl)
    refine ⟨fun hw => ?_, fun ha => ?_, fun hdone => ?_⟩
    · rw [s.jobStatusFields_waiting j hw, JobKind.code_eq] at found
      convert found using 1
      cases (s.slot j).deadline <;> rfl
    · rw [s.jobStatusFields_active j ha, JobKind.code_eq] at found
      convert found using 1
      cases (s.slot j).mark <;> rfl
    · rw [s.jobStatusFields_done j hdone, JobKind.code_eq] at found
      convert found using 1
      cases (s.slot j).final <;> rfl

end Sys2Proof.Machine
end

section
/-! PROOFS. SUBMIT: its payload read back, the job it accepts, the checks that refuse it, and the blocks that hold its bytes
(R93, R98 to R100). -/

namespace Sys2Proof.Machine

open Sys2Proof.Claims

/-! ## The payload written and read (R98, R192) -/

theorem submitFlags_read (compress present : Bool) :
    let flags : Byte := (if compress then 0x01 else 0x00) ||| (if present then 0x02 else 0x00)
    flags.getLsbD 0 = compress ∧ flags.getLsbD 1 = present ∧ flags.toNat < 4 := by
  cases compress <;> cases present <;> decide

theorem submitKind_written (x : SubmitFields) (h : Submittable x) :
    submitKind (if x.kind = .write then 0x00 else 0x01) x.outData.length (byteOf (x.inLimit.getD 0)).toNat =
      some (x.kind, x.inLimit) := by
  obtain ⟨-, -, hwrite, hexchange, -⟩ := h
  cases hk : x.kind with
  | write =>
    obtain ⟨hout, hlimit⟩ := hwrite hk
    simp [submitKind, hlimit, hout, byteOf]
  | exchange =>
    obtain ⟨n, hn, h1, h240⟩ := hexchange hk
    have e : (byteOf n).toNat = n := byteOf_toNat n (by omega)
    simp [submitKind, hn, e, h1, h240]

theorem submitDeadline_written (d : Option Nat) (h : ∀ n, d = some n → 1 ≤ n ∧ n ≤ 65535) :
    submitDeadline d.isSome (wordOf (d.getD 0)).toNat = some d := by
  cases d with
  | none => rfl
  | some n =>
    obtain ⟨h1, hmax⟩ := h n rfl
    have e : (wordOf n).toNat = n := wordOf_toNat n (by omega)
    have hne : n ≠ 0 := by omega
    simp [submitDeadline, e, hne]

theorem submitLength_of_le (th tl bay channel kind flags limit dh dl : Byte) (out : List Byte) (h : out.length ≤ 240) :
    submitLength ([th, tl, bay, channel, kind, flags, limit, dh, dl] ++ out) = true := by
  refine decide_eq_true ?_
  simp only [List.cons_append, List.nil_append, List.length_cons]
  omega

theorem submitLength_written (x : SubmitFields) (h : Submittable x) : submitLength (submitPayload x) = true := by
  obtain ⟨-, hout, -⟩ := h
  exact submitLength_of_le _ _ _ _ _ _ _ _ _ _ hout

theorem submitFields_written (x : SubmitFields) (h : Submittable x) : submitFields (submitPayload x) = some x := by
  have hbay : bayOf? (byteOf x.bay.val) = some x.bay :=
    bayOf?_some _ x.bay (byteOf_toNat _ (by have := x.bay.isLt; omega))
  have hkind := submitKind_written x h
  obtain ⟨hchannel, -, -, -, hdeadline⟩ := h
  have hdl := submitDeadline_written x.deadline hdeadline
  obtain ⟨hcompress, hpresent, hflags⟩ := submitFlags_read x.compress x.deadline.isSome
  have hdrop : (submitPayload x).drop 9 = x.outData := rfl
  have htag : wordAt (submitPayload x) 0 = x.tag := word_hi_lo x.tag
  have hword : wordAt (submitPayload x) 7 = wordOf (x.deadline.getD 0) := word_hi_lo _
  unfold submitFields
  rw [hdrop, htag, hword]
  simp only [submitPayload, byteAt, List.cons_append, List.getD_cons_succ, List.getD_cons_zero, hbay, hkind, hcompress,
    hpresent, hdl]
  exact if_pos ⟨hchannel, hflags⟩

/-- Settles O39. -/
theorem submitPayloadIsReadBack : Obligations.SubmitPayloadIsReadBack :=
  fun x h => ⟨submitLength_written x h, submitFields_written x h⟩

/-! ## Malformed payloads (R98) -/

theorem submitKind_isSome (kind : Byte) (n limit : Nat) (h : (submitKind kind n limit).isSome = true) :
    kind = 0x00 ∧ n ≠ 0 ∧ limit = 0 ∨ kind = 0x01 ∧ 1 ≤ limit ∧ limit ≤ 240 := by
  unfold submitKind at h
  split_ifs at h with h0 h1
  · exact .inl h0
  · exact .inr h1
  · cases h

theorem submitDeadline_isSome (flag : Bool) (n : Nat) (h : (submitDeadline flag n).isSome = true) :
    flag = true ↔ n ≠ 0 := by
  unfold submitDeadline at h
  split_ifs at h with h0 h1 h1 <;> simp [*] at h ⊢

/-- A payload read as some fields keeps R98: the bay, the channel, the flags, the kind and the deadline. -/
theorem submitFields_wellFormed (th tl bay channel kind flags limit dh dl : Byte) (out : List Byte) (x : SubmitFields)
    (h : submitFields ([th, tl, bay, channel, kind, flags, limit, dh, dl] ++ out) = some x) :
    bay.toNat < 8 ∧ channel.toNat ≤ 14 ∧ flags.toNat < 4 ∧
      (submitKind kind out.length limit.toNat).isSome = true ∧
      (submitDeadline (flags.getLsbD 1) (word dh dl).toNat).isSome = true := by
  simp only [submitFields] at h
  split at h
  · next b k l d hb hk hd =>
    split at h
    · next hc =>
      refine ⟨?_, hc.1, hc.2, Option.isSome_iff_exists.mpr ⟨_, hk⟩, Option.isSome_iff_exists.mpr ⟨_, hd⟩⟩
      by_contra hlt
      exact absurd (hb.symm.trans (bayOf?_none bay (not_lt.mp hlt))) nofun
    · cases h
  · cases h

theorem submitFields_malformed (th tl bay channel kind flags limit dh dl : Byte) (out : List Byte)
    (h : 8 ≤ bay.toNat ∨ 15 ≤ channel.toNat ∨ 2 ≤ kind.toNat ∨ 4 ≤ flags.toNat ∨ (kind = 0x00 ∧ out = []) ∨
      (kind = 0x00 ∧ limit ≠ 0) ∨ (kind = 0x01 ∧ (limit = 0 ∨ 241 ≤ limit.toNat)) ∨
      (flags.getLsbD 1 = true ∧ word dh dl = 0) ∨ (flags.getLsbD 1 = false ∧ word dh dl ≠ 0)) :
    submitFields ([th, tl, bay, channel, kind, flags, limit, dh, dl] ++ out) = none := by
  refine Option.eq_none_iff_forall_not_mem.mpr fun x hx => ?_
  obtain ⟨hbay, hchannel, hflags, hkind, hdeadline⟩ := submitFields_wellFormed _ _ _ _ _ _ _ _ _ _ x hx
  have hdl := submitDeadline_isSome _ _ hdeadline
  have hzero : (word dh dl).toNat = 0 ↔ word dh dl = 0 := by
    rw [← BitVec.toNat_inj]; rfl
  have hlimit : limit.toNat = 0 ↔ limit = 0 := by
    rw [← BitVec.toNat_inj]; rfl
  have hk := submitKind_isSome _ _ _ hkind
  rcases h with h | h | h | h | ⟨rfl, rfl⟩ | ⟨rfl, h⟩ | ⟨rfl, h⟩ | ⟨h, h'⟩ | ⟨h, h'⟩
  · omega
  · omega
  · rcases hk with ⟨rfl, -⟩ | ⟨rfl, -⟩ <;> exact absurd h (by decide)
  · omega
  · simp at hk
  · rcases hk with ⟨-, -, hl⟩ | ⟨h1, -⟩
    · exact h (hlimit.mp hl)
    · exact absurd h1 (by decide)
  · rcases hk with ⟨h0, -⟩ | ⟨-, h1, h240⟩
    · exact absurd h0 (by decide)
    · rcases h with h | h
      · have := hlimit.mpr h; omega
      · omega
  · exact hdl.mp h (hzero.mpr h')
  · exact h' (hzero.mp (not_not.mp (hdl.not.mp (by rw [h]; exact Bool.false_ne_true))))

/-! ## SUBMIT served -/

theorem State.serveSubmit_accepts (s : State) (p : List Byte) (x : SubmitFields) (j : SlotNo)
    (hp : submitFields p = some x) (hx : s.submitRefusal? x = none) (hj : s.freeSlot? = some j) :
    s.serveSubmit p = (s.acceptJob j x, .accepted, []) := by
  simp only [State.serveSubmit, hp, hx, hj]

theorem State.serveSubmit_refuses (s : State) (p : List Byte) (x : SubmitFields) (st : Status)
    (hp : submitFields p = some x) (hx : s.submitRefusal? x = some st) : s.serveSubmit p = s.refused st := by
  simp only [State.serveSubmit, hp, hx]

theorem State.serveSubmit_malformed (s : State) (p : List Byte) (hp : submitFields p = none) :
    s.serveSubmit p = s.refused .badArgument := by
  simp only [State.serveSubmit, hp]

/-- The checks of R99 read nothing of the accepted frames. -/
theorem State.submitRefusal?_popArrival (s : State) (f : Frame) (x : SubmitFields) :
    (s.popArrival f).submitRefusal? x = s.submitRefusal? x := by
  simp [State.submitRefusal?, State.findTag_popArrival, State.freeSlot?, State.freeBlocks, State.blockHeld]

/-- A SUBMIT of good length that executes is answered with what its service answers. -/
theorem exec_submit (q : Byte) (p : List Byte) (s u : State) (x : Status) (hp : submitLength p = true)
    (hx : Executes s ⟨0x08, q, p⟩) (hs : (s.popArrival ⟨0x08, q, p⟩).serveSubmit p = (u, x, [])) :
    ∃ t, exec (.submit q p) s = .next t.fillLine ∧ AnsweredFrom u t ⟨0x08, q, p⟩ x.code [] :=
  executes_answered s u _ (submitLength p) (fun t => t.serveSubmit p) hx x [] hs hp (.inr rfl)

/-- An accepted job is appended to its bay's queue. -/
theorem State.acceptJob_queue (s : State) (j : SlotNo) (b : BayNo) (x : SubmitFields) :
    (s.acceptJob j x).queue b = if b = x.bay then s.queue b ++ [j] else s.queue b := by
  simp only [State.acceptJob, State.reportLive_frame, State.setQueue_queue]
  split
  · next hb => subst hb; rfl
  · rfl

/-- Settles the first part of O40. -/
theorem submitTakesSlotAndBlocks : Claims.SubmitTakesSlotAndBlocks := by
  intro q x d j s hsub f need blocks hx hactive hid hoffers htag hroom hfree hlow hneed
  generalize hs1 : s.popArrival f = s1
  have hslot : s1.freeSlot? = some j := by
    rw [← hs1]
    exact State.freeSlot?_some _ j (by simpa using hfree) fun i hi => by simpa using hlow i hi
  have hpass : s1.submitRefusal? x = none := by
    have hoff : (s.bay x.bay).offers x.channel = true := (Bay.offers_iff _ _).mpr ⟨d, hid, hoffers⟩
    have hfs : s.freeSlot? = some j := State.freeSlot?_some s j hfree hlow
    have hneed' : ¬s.freeBlocks.length < blocksNeeded x.outData.length x.inLimit := not_lt.mpr hneed
    rw [← hs1, State.submitRefusal?_popArrival]
    simp [State.submitRefusal?, hactive, hoff, State.findTag_none s x.tag htag, hroom, hfs, hneed']
  obtain ⟨t, ht, hans⟩ := exec_submit q (submitPayload x) s (s1.acceptJob j x) .accepted (submitLength_written x hsub) hx
    ((congrArg (fun u => State.serveSubmit u (submitPayload x)) hs1).trans
      (s1.serveSubmit_accepts _ x j (submitFields_written x hsub) hpass hslot))
  have hhanded : s.handed = s1.handed := by simp [← hs1]
  have hblocks : blocks = s1.freeBlocks.take (blocksNeeded x.outData.length x.inLimit) := by
    simp [blocks, need, ← hs1, State.freeBlocks, State.blockHeld, blocksNeeded]
  refine ⟨t, s1.acceptJob j x, ht, ?_, ?_, fun i hi => ?_, ?_, fun c hc => ?_, ?_, hans⟩
  · rw [hhanded]; rfl
  · rw [State.acceptJob_slot, if_pos rfl, hblocks]; rfl
  · rw [State.acceptJob_slot, if_neg hi, ← hs1]; simp
  · rw [State.acceptJob_queue, if_pos rfl, ← hs1]; simp
  · rw [State.acceptJob_queue, if_neg hc, ← hs1]; simp
  · rw [hblocks]
    simp [← hs1, State.acceptJob]

/-- Settles the second part of O40: a payload that R98 refuses, then the checks of R99 in their order. -/
theorem submitIsRefusedInOrder : Claims.SubmitIsRefusedInOrder := by
  refine ⟨?_, ?_⟩
  · intro q th tl bay channel kind flags limit dh dl out s hout p hx hbad
    have hlen : submitLength p = true := submitLength_of_le _ _ _ _ _ _ _ _ _ _ hout
    exact exec_submit q p s _ .badArgument hlen hx
      (State.serveSubmit_malformed _ p (submitFields_malformed th tl bay channel kind flags limit dh dl out hbad))
  · intro q x s hsub f offers used free hx
    have hoffers : (s.bay x.bay).offers x.channel = true ↔ offers := Bay.offers_iff _ _
    have hused : (s.findTag x.tag).isSome = true ↔ used := s.findTag_isSome x.tag
    have hfree : s.freeSlot?.isNone = true ↔ ¬free := by
      rw [Option.isNone_iff_eq_none, s.freeSlot?_none, not_exists]
    have refused (st : Status) (hst : s.submitRefusal? x = some st) :
        AnsweredFrom (s.popArrival f) (s.request f true fun t => t.serveSubmit (submitPayload x)) f st.code [] :=
      s.request_answered _ f _ hx st [] (State.serveSubmit_refuses _ _ x st (submitFields_written x hsub)
        ((s.submitRefusal?_popArrival f x).trans hst)) (.inr rfl)
    refine ⟨s.request f true fun t => t.serveSubmit (submitPayload x), ?_, ?_⟩
    · show Host.Outcome.next (s.request f (submitLength (submitPayload x)) _).fillLine = _
      rw [submitLength_written x hsub]
    · refine ⟨fun h1 => refused .noModule ?_, fun h1 h2 => refused .wrongState ?_, fun h1 h2 => refused .noChannel ?_,
        fun h1 h2 h3 => refused .tagInUse ?_, fun h1 h2 h3 h4 => refused .queueFull ?_,
        fun h1 h2 h3 h4 h5 => refused .noSlot ?_, fun h1 h2 h3 h4 h5 h6 => refused .noBuffer ?_⟩
      all_goals simp only [State.submitRefusal?]
      · simp [h1]
      · simp [h1, h2]
      · simp [h1, hoffers.not.mpr h2]
      · simp [h1, hoffers.mpr h2, hused.mpr h3]
      · simp [h1, hoffers.mpr h2, hused.not.mpr h3, h4]
      · simp [h1, hoffers.mpr h2, hused.not.mpr h3, h4, hfree.mpr h5]
      · have hneed : s.freeBlocks.length < blocksNeeded x.outData.length x.inLimit := h6
        have hroom : ¬8 ≤ s.liveCount x.bay := not_le.mpr h4
        simp [h1, hoffers.mpr h2, hused.not.mpr h3, hroom, hfree.not.mpr (not_not.mpr h5), hneed]

/-- Settles the third part of O40. -/
theorem blocksHoldTheirBytes : Claims.BlocksHoldTheirBytes :=
  ⟨fun s => ⟨s.freeBlocks_pairwise, s.mem_freeBlocks⟩, fun m blocks i n _ => poolLoad_get m blocks i n,
    fun m blocks i l hm hn hl =>
      ⟨(poolStore_read m blocks i l hm hn hl).1, (poolStore_read m blocks i l hm hn hl).2,
        poolLoad_poolStore m blocks i l hm hn hl⟩⟩

/-- Settles O40. -/
theorem submitIsAcceptedOrRefused : Obligations.SubmitIsAcceptedOrRefused :=
  ⟨submitTakesSlotAndBlocks, submitIsRefusedInOrder, blocksHoldTheirBytes⟩

end Sys2Proof.Machine
end

section
/-! PROOFS. OPEN, CLOSE and RESTART (R158 to R161, R163), ACK (R171 to R173) and the frame boundary (R148, R164, R170). -/

namespace Sys2Proof.Machine

open Sys2Proof.Claims

/-! ## OPEN, by the link's state and the payload (R154, R158, R159) -/

theorem State.requestOpen_full (s : State) (f : Frame) (hl : s.handler.link ≠ .stalled)
    (hr : 8 ≤ s.handler.replies.length) : s.requestOpen f = (s.popArrival f).dropFrame := by
  rw [State.requestOpen, s.takeFrame_eq f hl]
  exact if_pos (by simpa [State.repliesFull] using hr)

theorem State.openReply_eq (s : State) (q : Byte) (p : List Byte) :
    s.openReply ⟨0x01, q, p⟩ =
      ⟨0x81, q, [0x00, 0x08, 0x10, 0x01, 0x08, hi s.handler.session, lo s.handler.session,
        resetCauseCode s.reporter.resetCause]⟩ := by
  have hfamily : two Config.familyCode = [0x08, 0x10] := by decide
  rw [State.openReply, hfamily]
  rfl

theorem State.answerOpen_eq (s : State) (q : Byte) (p : List Byte) :
    s.answerOpen ⟨0x01, q, p⟩ = openAnswered s q := by
  rw [State.answerOpen, State.openReply_eq]; rfl

/-- Past the check of the reply queue, an OPEN goes by the length of its payload. -/
theorem State.requestOpen_room (s : State) (q : Byte) (p : List Byte) (hl : s.handler.link ≠ .stalled)
    (hr : s.handler.replies.length < 8) :
    let f : Frame := ⟨0x01, q, p⟩
    let s1 := s.popArrival f
    (p.length ≠ 2 →
      s.requestOpen f = s1.queueReply (if s.handler.link = .down then f.noSession else f.reply .badLength []) false) ∧
    (p.length = 2 →
      s.requestOpen f =
        openAnswered
          (if s.handler.link = .down then s1.startSession (wordAt p 0)
          else if s.handler.nonce = some (wordAt p 0) then s1.setDeviceCounters s1.counters.device.duplicate
          else (s1.endSession []).startSession (wordAt p 0)) q) := by
  intro f s1
  have hroom : s1.repliesFull = false := by simpa [s1, State.repliesFull] using hr
  have hhandler : s1.handler = s.handler := by simp [s1]
  have htake : s.takeFrame f = s1 := s.takeFrame_eq f hl
  rw [State.requestOpen, htake]
  simp only [hroom, hhandler, Bool.false_eq_true, if_false, lengthIs, beq_iff_eq, f, State.answerOpen_eq]
  refine ⟨fun hp => ?_, fun hp => ?_⟩
  · rw [if_neg hp]; split <;> rfl
  · rw [if_pos hp]; split_ifs <;> rfl

/-- Settles the first part of O48. -/
theorem openStartsSession : Claims.OpenStartsSession := by
  intro q p s hl s1
  refine ⟨s.requestOpen ⟨0x01, q, p⟩, rfl, s.requestOpen_full _ hl, fun hr => ?_⟩
  obtain ⟨hbad, hnonce⟩ := s.requestOpen_room q p hl hr
  have wordAt_two (nh nl : Byte) : wordAt [nh, nl] 0 = word nh nl := rfl
  refine ⟨fun hp => ?_, ?_, ?_, ?_⟩
  · rw [hbad hp]
    by_cases hd : s.handler.link = .down
    · rw [if_pos hd, if_pos hd]; rfl
    · rw [if_neg hd, if_neg hd]; rfl
  · rintro nh nl rfl hd
    rw [hnonce rfl, if_pos hd]
    exact ⟨_, s1.startSession_spec _, rfl⟩
  · rintro nh nl rfl hu hn
    rw [hnonce rfl, if_neg (by simp [hu]), wordAt_two, if_pos hn]
    rfl
  · rintro nh nl rfl hu hn
    rw [hnonce rfl, if_neg (by simp [hu]), wordAt_two, if_neg hn]
    exact ⟨_, _, s1.endSession_spec [], State.startSession_spec _ _, rfl⟩

/-! ## CLOSE and RESTART (R160, R161) -/

/-- A CLOSE or RESTART that executes ends the session and keeps its reply. -/
theorem State.requestEnd_executed (s : State) (f : Frame) (restart : Bool) (hx : Executes s f) (hp : f.payload = []) :
    s.requestEnd f restart = (s.popArrival f).endSession [⟨f.reply .ok [], restart⟩] := by
  simp [State.requestEnd, executes_takeFrame s f hx, executes_unsettled s f hx, hp]

/-- Settles the second part of O48. -/
theorem closeAndRestartEndSession : Claims.CloseAndRestartEndSession := fun q s =>
  ⟨fun hx => ⟨s.requestEnd ⟨0x02, q, []⟩ false, rfl, by
      rw [s.requestEnd_executed _ _ hx rfl]; exact State.endSession_spec _ _⟩,
    fun hx => ⟨s.requestEnd ⟨0x04, q, []⟩ true, rfl, by
      rw [s.requestEnd_executed _ _ hx rfl]; exact State.endSession_spec _ _⟩⟩

/-- Settles O48. -/
theorem sessionsStartAndEnd : Obligations.SessionsStartAndEnd := ⟨openStartsSession, closeAndRestartEndSession⟩

/-! ## ACK (R171, R172) -/

theorem State.takeAck_unmatched (s : State) (n : Byte) (h : ∀ u ∈ s.transmitter.unacked, u.number ≠ n) :
    s.takeAck n = s.staleAck := by
  have hnone : (s.transmitter.unacked.findIdx? fun u => u.number == n) = none := by
    simpa [List.findIdx?_eq_none_iff] using h
  rw [State.takeAck, hnone]

/-- The first entry with the number leaves, and those before it. -/
theorem State.takeAck_matched (s : State) (n : Byte) (before after : List Unacked) (x : Unacked)
    (hl : s.transmitter.unacked = before ++ x :: after) (hx : x.number = n) (hb : ∀ u ∈ before, u.number ≠ n) :
    s.takeAck n = s.removeUpTo before.length := by
  have hnone : (before.findIdx? fun u => u.number == n) = none := by
    simpa [List.findIdx?_eq_none_iff] using hb
  have hsome : (s.transmitter.unacked.findIdx? fun u => u.number == n) = some before.length := by
    simp [hl, List.findIdx?_append, hnone, List.findIdx?_cons, hx]
  rw [State.takeAck, hsome]

/-- Every entry up to x leaves, oldest first; the ack timer is set for what remains (R171, R173). -/
theorem State.removeUpTo_spec (s : State) (before after : List Unacked) (x : Unacked)
    (hl : s.transmitter.unacked = before ++ x :: after) :
    ∃ v, RemovedAll (before.map Unacked.notice ++ [x.notice])
        { s with transmitter := { s.transmitter with unacked := after, retries := 0 } } v ∧
      s.removeUpTo before.length = { v with transmitter := { v.transmitter with
        ackTimer :=
          if after = [] then none
          else if (∃ u ∈ after, u.due = true) ∨ s.port.sendingNotice = true then s.transmitter.ackTimer
          else some (ms s.config.link.ackTimeout.toNat) } } := by
  have hgone : s.transmitter.unacked.take (before.length + 1) = before ++ [x] := by simp [hl, List.take_append]
  have hkept : s.transmitter.unacked.drop (before.length + 1) = after := by simp [hl, List.drop_append]
  generalize hs0 : ({ s with transmitter := { s.transmitter with unacked := after, retries := 0 } } : State) = s0
  obtain ⟨hport, hconfig, hunacked, htimer⟩ := noticesRemoved_frame (before ++ [x]) s0
  have hremoved := noticesRemoved_spec (before ++ [x]) s0
  generalize hv : (before ++ [x]).foldl (fun t u => t.noticeRemoved u.notice) s0 = v at *
  rw [List.map_append] at hremoved
  refine ⟨v, hremoved, ?_⟩
  have hafter : s.removeUpTo before.length = v.setTransmitter { v.transmitter with ackTimer := v.ackTimerAfterAck } := by
    rw [State.removeUpTo, hgone, hkept, ← hv, ← hs0]; rfl
  have htime : v.ackTimerAfterAck =
      if after = [] then none
      else if (∃ u ∈ after, u.due = true) ∨ s.port.sendingNotice = true then s.transmitter.ackTimer
      else some (ms s.config.link.ackTimeout.toNat) := by
    simp only [State.ackTimerAfterAck, Transmitter.anyDue, hport, hconfig, hunacked, htimer, ← hs0, Bool.or_eq_true,
      List.any_eq_true]
    rfl
  rw [hafter, htime]
  rfl

theorem State.requestAck_down (s : State) (f : Frame) (hd : s.handler.link = .down) :
    s.requestAck f = s.popArrival f := by
  rw [State.requestAck, s.takeFrame_eq f (by simp [hd])]
  exact if_pos (by simpa using hd)

/-- With the link UP an ACK of one byte is taken. -/
theorem State.requestAck_number (s : State) (q n : Byte) (hu : s.handler.link = .up) :
    s.requestAck ⟨0x05, q, [n]⟩ = (s.popArrival ⟨0x05, q, [n]⟩).takeAck n := by
  rw [State.requestAck, s.takeFrame_eq _ (by simp [hu])]
  exact (if_neg (by simp [hu])).trans (if_pos rfl)

/-- With the link UP an ACK that is not of one byte is stale. -/
theorem State.requestAck_badLength (s : State) (f : Frame) (hu : s.handler.link = .up) (hp : f.payload.length ≠ 1) :
    s.requestAck f = (s.popArrival f).staleAck := by
  rw [State.requestAck, s.takeFrame_eq f (by simp [hu])]
  exact (if_neg (by simp [hu])).trans (if_neg (by simpa [lengthIs] using hp))

/-- Settles O49. -/
theorem ackRemovesNotices : Obligations.AckRemovesNotices := by
  intro q p s hl s1 stale
  have htransmitter : s1.transmitter = s.transmitter := by simp [s1]
  refine ⟨s.requestAck ⟨0x05, q, p⟩, rfl, s.requestAck_down _,
    fun hu hp => s.requestAck_badLength ⟨0x05, q, p⟩ hu hp, ?_, ?_⟩
  · rintro n hu rfl hn
    rw [s.requestAck_number q n hu]
    exact s1.takeAck_unmatched n (htransmitter ▸ hn)
  · rintro n before x after hu rfl hlist hx hb
    have hlist1 : s1.transmitter.unacked = before ++ x :: after := htransmitter ▸ hlist
    have hsending : s1.port.sendingNotice = s.port.sendingNotice := by
      simp [s1, State.popArrival_eq, LinkPort.sendingNotice]
    have hconfig : s1.config = s.config := by simp [s1]
    rw [s.requestAck_number q n hu, ← hsending, ← htransmitter, ← hconfig]
    obtain ⟨v, hv, ht⟩ := s1.removeUpTo_spec before after x hlist1
    exact ⟨v, hv, (s1.takeAck_matched n before after x hlist1 hx hb).trans ht⟩

/-! ## The frame boundary (R164, R170, R173) -/

/-- A notice's end starts the ack timer where entries wait and none is due (R173). -/
theorem State.noticeEnded_eq (s : State) :
    s.noticeEnded =
      if s.handler.link = .up ∧ s.transmitter.unacked ≠ [] ∧ (∀ x ∈ s.transmitter.unacked, x.due = false) then
        { s with transmitter := { s.transmitter with ackTimer := some (ms s.config.link.ackTimeout.toNat) } }
      else s := by
  simp only [State.noticeEnded, Transmitter.anyDue, List.any_eq_false, Bool.not_eq_true]
  rfl

theorem exec_frameSent_idle (s : State) (h : s.port.sending = none) : exec .frameSent s = .next s.boundary := by
  show Host.Outcome.next _ = _
  rw [h]

theorem exec_frameSent_busy (s : State) (f : Sending) (h : s.port.sending = some f) :
    exec .frameSent s = .next (s.frameEnded f) := by
  show Host.Outcome.next _ = _
  rw [h]

/-- Settles the first part of O50. -/
theorem frameEndIsBoundary : Claims.FrameEndIsBoundary := by
  intro s
  cases hsend : s.port.sending with
  | none => exact ⟨s.boundary, exec_frameSent_idle s hsend, fun _ => s.boundary_spec, nofun⟩
  | some g =>
    refine ⟨s.frameEnded g, exec_frameSent_busy s g hsend, nofun, ?_⟩
    rintro f ⟨⟩ u waits
    have hended : s.frameEnded g =
        if g.restart then u.restartReset else if g.notice then u.noticeEnded.boundary else u.boundary := rfl
    rw [hended]
    refine ⟨fun hr => ?_, fun hr hn => ?_, fun hr hn hw => ?_⟩
    · rw [if_pos hr]; rfl
    · rw [if_neg (by simp [hr])]
      split
      · next h =>
        have hwaits : ¬waits := hn.resolve_left (by simp [h])
        rw [State.noticeEnded_eq, if_neg hwaits]
        exact u.boundary_spec
      · exact u.boundary_spec
    · rw [if_neg (by simp [hr]), if_pos hn, State.noticeEnded_eq, if_pos hw]
      exact State.boundary_spec _

/-- Settles the second part of O50. -/
theorem idleLineTakesFrameAtOnce : Claims.IdleLineTakesFrameAtOnce := fun s =>
  ⟨fun h => by rw [s.fillLine_idle h]; exact s.boundary_spec, fun h => s.fillLine_busy (Option.isSome_iff_ne_none.mpr h)⟩

/-- A quotient rounded up is the least that covers the dividend. -/
theorem ceilDiv_mul_bounds (a r : Nat) (h : 0 < r) : a ≤ (a + r - 1) / r * r ∧ (a + r - 1) / r * r < a + r := by
  have hdiv := Nat.div_add_mod (a + r - 1) r
  have hmod := Nat.mod_lt (a + r - 1) h
  rw [Nat.mul_comm] at hdiv
  omega

/-- Settles the third part of O50. -/
theorem frameTimeFollowsRate : Claims.FrameTimeFollowsRate := by
  intro x hx n
  have hrate : linkRate x.1 = x.2 ∧ 0 < x.2 := by
    simp only [List.mem_cons, List.not_mem_nil, or_false] at hx
    rcases hx with rfl | rfl | rfl | rfl <;> decide
  obtain ⟨hr, hpos⟩ := hrate
  have h := ceilDiv_mul_bounds (n * 10 * 100000) x.2 hpos
  simp only [frameTime, hr]
  rwa [Nat.mul_comm 10 n]

/-- Settles O50. -/
theorem frameBoundarySendsNext : Obligations.FrameBoundarySendsNext :=
  ⟨frameEndIsBoundary, idleLineTakesFrameAtOnce, frameTimeFollowsRate⟩

end Sys2Proof.Machine
end

section
/-! PROOFS. The step on an empty queue (R114, R116, R155, R164, R170, R187, R188; assumption logs 7 and 10). -/

namespace Sys2Proof.Machine

open Sys2Proof.Claims

/-! ## What waits is taken, in the model's order (assumption log 7) -/

theorem step_of_queue_empty (s : State) (h : s.pending = []) : step s = .next s.idle := by
  rw [step, h]

theorem State.idle_of_report (s : State) {r : Report} {rest : List Report} (h : s.handed = r :: rest) :
    s.idle = { s with pending := [r.command] } := by
  rw [State.idle, h]

theorem State.idle_of_boundary (s : State) (hh : s.handed = []) (hb : s.boundaryDue = true) :
    s.idle = { s with pending := [.frameSent] } := by
  rw [State.idle, hh]
  exact if_pos hb

theorem State.idle_of_grant (s : State) (hh : s.handed = []) (hb : s.boundaryDue = false) (hg : s.grantDue = true) :
    s.idle = { s with pending := [.grant] } := by
  rw [State.idle, hh]
  exact (if_neg (by simp [hb])).trans (if_pos hg)

/-- With no report, boundary or grant the accepted frames decide. -/
theorem State.idle_of_arrivals (s : State) (hh : s.handed = []) (hb : s.boundaryDue = false)
    (hg : s.grantDue = false) :
    (∀ f rest, s.port.arrivals = f :: rest → s.idle = { s with pending := [f.command] }) ∧
      (s.port.arrivals = [] → s.idle = s.tick) := by
  refine ⟨fun f rest hf => ?_, fun hf => ?_⟩ <;> simp [State.idle, hh, hb, hg, hf]

/-- Settles the first part of O2. -/
theorem emptyQueueTakesWhatWaits : Claims.EmptyQueueTakesWhatWaits := by
  intro s hq
  rw [step_of_queue_empty s hq]
  refine ⟨fun r rest h => ?_, fun hh hb => ?_, fun hh hb hg => ?_, fun f rest hh hb hg hf => ?_⟩
  · rw [s.idle_of_report h]
  · rw [s.idle_of_boundary hh hb]
  · rw [s.idle_of_grant hh hb hg]
  · rw [(s.idle_of_arrivals hh hb hg).1 f rest hf]

/-! ## The passing of 10 µs (assumption log 7) -/

theorem expiring_eq (timer : Option Ticks) (command : Instr) :
    expiring timer command = if timer.any (· ≤ 1) then [command] else [] := by
  cases timer <;> simp [expiring]

/-- The commands of the timers that run out, gathered one timer at a time, are those of the timers with one unit or none
left. -/
theorem flatMap_expiring (l : List (Option Ticks × Instr)) :
    l.flatMap (fun x => expiring x.1 x.2) = (l.filter fun x => x.1.any (· ≤ 1)).map Prod.snd := by
  induction l with
  | nil => rfl
  | cons x l ih =>
    rw [List.flatMap_cons, expiring_eq, ih, List.filter_cons]
    split <;> rfl

theorem Bay.expiries_eq (r : Bay) (b : BayNo) :
    r.expiries b = (bayTimers r b).flatMap fun x => expiring x.1 x.2 := by
  simp [Bay.expiries, bayTimers, settleCommand]

/-- The queue after 10 µs: the expiries of `timersRunning`, in its order. -/
theorem State.expiries_eq (s : State) :
    s.expiries = ((timersRunning s).filter fun x => x.1.any (· ≤ 1)).map Prod.snd := by
  rw [← flatMap_expiring]
  simp [State.expiries, timersRunning, Engine.expiries, LinkPort.expiries, Bay.expiries_eq, List.flatMap_assoc,
    List.flatMap_map]

theorem State.tick_bay (s : State) (b : BayNo) : s.tick.bay b = (s.bay b).tick := by
  simp [State.tick, State.bay]

/-- Settles the second part of O2. -/
theorem timePassesWhenNothingWaits : Claims.TimePassesWhenNothingWaits := by
  intro s hq hh hb hg hf
  have hstep : step s = .next s.tick := by
    rw [step_of_queue_empty s hq, (s.idle_of_arrivals hh hb hg).2 hf]
  exact ⟨s.tick, hstep, s.expiries_eq, rfl, s.tick_bay, rfl, s.tick_slot, rfl, rfl⟩

/-! ## When a boundary and a grant are due (R114, R116, R164, R170) -/

theorem State.boundaryDue_iff (s : State) :
    s.boundaryDue = true ↔
      s.port.sending = none ∧
        (s.handler.replies ≠ [] ∨
          s.handler.link = .up ∧
            ((∃ u ∈ s.transmitter.unacked, u.due = true) ∨
              s.transmitter.unacked.length < 4 ∧ s.transmitter.pending ≠ [])) := by
  simp [State.boundaryDue, State.noticeOffered, Transmitter.anyDue]

theorem State.busFree_iff (s : State) :
    s.busFree = true ↔ s.engine.state = .idle ∧ ∀ j : SlotNo, (s.slot j).state ≠ .active := by
  have hactive : s.activeSlot? = none ↔ ∀ j : SlotNo, (s.slot j).state ≠ .active :=
    ⟨s.not_active_of_activeSlot?, s.activeSlot?_none⟩
  simp [State.busFree, hactive]

/-- A scan reaches every bay (R116). -/
theorem mem_scanOrder : ∀ last b : BayNo, b ∈ scanOrder last := by decide

theorem State.jobCandidate?_isSome (s : State) (b : BayNo) :
    (s.jobCandidate? b).isSome = true ↔ (s.bay b).state = .active ∧ s.queue b ≠ [] := by
  unfold State.jobCandidate?
  split
  · next ha => simp [ha]
  · next ha => simp [ha]

/-- The arbiter has a choice where some bay has a candidate: its read, or the job at the head of its queue (R114, R116). -/
theorem State.choice?_isSome (s : State) :
    s.choice?.isSome = true ↔
      ∃ b : BayNo, (s.bay b).read = .candidate ∨ (s.bay b).state = .active ∧ s.queue b ≠ [] := by
  simp only [← s.jobCandidate?_isSome]
  unfold State.choice?
  split
  · next b hb =>
    have hread : (s.bay b).read = .candidate := by simpa [State.readCandidate] using List.find?_some hb
    exact ⟨fun _ => ⟨b, .inl hread⟩, fun _ => rfl⟩
  · next hnone =>
    have hread (b : BayNo) : (s.bay b).read ≠ .candidate := by
      simpa [State.readCandidate] using List.find?_eq_none.mp hnone b (mem_scanOrder _ b)
    simp [hread, mem_scanOrder]

/-- Settles the third part of O2. -/
theorem whatIsDue : Claims.WhatIsDue := by
  intro s
  refine ⟨s.boundaryDue_iff, ?_⟩
  rw [State.grantDue, Bool.and_eq_true, s.busFree_iff, s.choice?_isSome, and_assoc]

/-! ## The commands of reports and of accepted frames (R155, R187, R188) -/

/-- Settles the fourth part of O2. -/
theorem reportsHaveTheirCommands : Claims.ReportsHaveTheirCommands := by
  intro w b j n x o i fell earlier l bits
  exact ⟨rfl, rfl, rfl, rfl, rfl, rfl, rfl, rfl⟩

/-- A BAY-COMMAND of none of the four commands is an unknown request (assumption log 10). -/
theorem Frame.command_of_noBayCommand (q : Byte) (p : List Byte)
    (h : ∀ b c : Byte, p = [b, c] → c = 0x00 ∨ 0x05 ≤ c.toNat) :
    Frame.command ⟨0x10, q, p⟩ = .unknownRequest 0x10 q p := by
  show bayCommandOf ⟨0x10, q, p⟩ = _
  unfold bayCommandOf
  split
  · next b c hp =>
    have hc := h b c hp
    have hne (x : Byte) (hx : 0 < x.toNat ∧ x.toNat < 5) : c ≠ x := by rintro rfl; bv_omega
    simp [hne]
  · rfl

/-- A frame of no listed kind is an unknown request (R155). -/
theorem Frame.command_of_noKind (k q : Byte) (p : List Byte)
    (h : k ∉ ([0x01, 0x02, 0x03, 0x04, 0x05, 0x08, 0x09, 0x0A, 0x10, 0x11, 0x12, 0x13, 0x14, 0x18, 0x19, 0x1A, 0x1B,
      0x1C] : List Byte)) :
    Frame.command ⟨k, q, p⟩ = .unknownRequest k q p := by
  have hkind : k.toNat ∉ [0x01, 0x02, 0x03, 0x04, 0x05, 0x08, 0x09, 0x0A, 0x10, 0x11, 0x12, 0x13, 0x14, 0x18, 0x19, 0x1A,
      0x1B, 0x1C] := by
    simpa [← BitVec.toNat_inj] using h
  unfold Frame.command
  split
  case h_19 => rfl
  all_goals
    next hk =>
      replace hk : k.toNat = _ := hk
      simp [hk] at hkind

/-- Settles the fifth part of O2. -/
theorem framesHaveTheirCommands : Claims.FramesHaveTheirCommands := by
  intro k q p
  refine ⟨?_, fun b => ?_, Frame.command_of_noBayCommand q p, Frame.command_of_noKind k q p⟩
  · simp only [List.forall_mem_cons]
    exact ⟨rfl, rfl, rfl, rfl, rfl, rfl, rfl, rfl, rfl, rfl, rfl, rfl, rfl, rfl, rfl, rfl, rfl, nofun⟩
  · simp only [List.forall_mem_cons]
    exact ⟨rfl, rfl, rfl, rfl, nofun⟩

/-- Settles O2. -/
theorem emptyQueueGoesOn : Obligations.EmptyQueueGoesOn :=
  ⟨emptyQueueTakesWhatWaits, timePassesWhenNothingWaits, whatIsDue, reportsHaveTheirCommands, framesHaveTheirCommands⟩

end Sys2Proof.Machine
end

section
/-! PROOFS. A raise taken by the Event Reporter, CLEAR-EVENTS, and the configuration requests (R135, R137 to R139, R144, R145,
R178 to R180, R182). -/

namespace Sys2Proof.Machine

open Sys2Proof.Claims

/-! ## Raises (R135) -/

theorem Report.raiseOf?_eq_none (n : SourceNo) (r : Report) (h : ∀ x, r ≠ .raise n x) : r.raiseOf? n = none := by
  cases r with
  | raise m x =>
    have hm : m ≠ n := fun hm => h x (hm ▸ rfl)
    simp [Report.raiseOf?, hm]
  | _ => rfl

/-- Settles O36: the oldest raise of the source is taken and recorded. -/
theorem raiseIsRecorded : Obligations.RaiseIsRecorded := by
  intro s n bits pre post hh hpre
  have htake := fun act => s.takeReport_oldest (Report.raiseOf? n) act pre post _ bits hh (by simp [Report.raiseOf?])
    fun x hx => Report.raiseOf?_eq_none n x fun y hy => hpre y (hy ▸ hx)
  exact ⟨_, congrArg Host.Outcome.next (htake _), State.recordRaise_spec _ n bits⟩

/-! ## CLEAR-EVENTS (R144, R145) -/

/-- SERVICE holds at a source that is a bay, ACTIVE and with its service line asserted (R144). -/
theorem State.serviceHolds_iff (s : State) (n : SourceNo) :
    s.serviceHolds n = true ↔ ∃ b : BayNo, b.val = n.val ∧ (s.bay b).state = .active ∧ (s.bay b).service = true := by
  unfold State.serviceHolds bayOfSource?
  by_cases hn : n.val < 8
  · have same (b : BayNo) : b.val = n.val ↔ b = ⟨n.val, hn⟩ := ⟨fun e => Fin.ext e, fun e => e ▸ rfl⟩
    simp [hn, same]
  · have none (b : BayNo) : b.val ≠ n.val := by omega
    simp [hn, none]

/-- SERVICE is raised again exactly where it was cleared and still holds (R144 step 3). -/
theorem State.serviceAgain_spec (s : State) (n : SourceNo) (cleared : Byte) :
    let again := cleared &&& SERVICE ≠ 0 ∧
      ∃ b : BayNo, b.val = n.val ∧ (s.bay b).state = .active ∧ (s.bay b).service = true
    (again → Recorded s (s.serviceAgain n cleared) n SERVICE) ∧ (¬again → s.serviceAgain n cleared = s) := by
  rw [← State.serviceHolds_iff]
  refine ⟨fun h => ?_, fun h => if_neg h⟩
  rw [State.serviceAgain, if_pos h]
  exact State.recordRaise_spec s n SERVICE

/-- A source above 8, or a mask beyond the device's three bits (R144). -/
theorem State.serveClearEvents_refused (s : State) (src mask : Byte)
    (h : 9 ≤ src.toNat ∨ (src = 0x08 ∧ mask &&& ~~~0x07 ≠ 0)) :
    s.serveClearEvents [src, mask] = s.refused .badArgument := by
  rcases h with h | ⟨rfl, hm⟩
  · simp [State.serveClearEvents, byteAt, sourceOf?_none src h]
  · have hn : sourceOf? (0x08 : Byte) = some deviceSource := rfl
    simp only [State.serveClearEvents, byteAt, List.getD_cons_zero, List.getD_cons_succ, hn]
    exact if_pos ⟨trivial, hm⟩

/-- CLEAR-EVENTS of a source with bits that it has (R144). -/
theorem State.serveClearEvents_clears (s : State) (src mask : Byte) (n : SourceNo) (hn : n.val = src.toNat)
    (hm : src = 0x08 → mask &&& ~~~0x07 = 0) :
    s.serveClearEvents [src, mask] =
      (s.clearEvents n mask, .ok, [(s.source n).set, ((s.clearEvents n mask).source n).set]) := by
  simp only [State.serveClearEvents, byteAt, List.getD_cons_zero, List.getD_cons_succ, sourceOf?_some src n hn]
  exact if_neg fun h => h.2 (hm ((deviceSource_iff src n hn).mp h.1))

/-- Settles O43: the arguments are refused, or the steps of R144 follow one another. -/
theorem clearEventsRaisesServiceAgain : Obligations.ClearEventsRaisesServiceAgain := by
  intro q src mask s f s1 hx
  by_cases bad : 9 ≤ src.toNat ∨ (src = 0x08 ∧ mask &&& ~~~0x07 ≠ 0)
  · obtain ⟨t, ht, hans⟩ := executes_refused s f (fun t => t.serveClearEvents [src, mask]) .badArgument hx
      (s1.serveClearEvents_refused src mask bad)
    refine ⟨t, ht, fun _ => hans, fun n hn hm => ?_⟩
    rcases bad with h | ⟨h8, h⟩
    · omega
    · exact absurd (hm h8) h
  · obtain ⟨hsrc, hmask⟩ := not_or.mp bad
    have hm : src = 0x08 → mask &&& ~~~0x07 = 0 := fun h8 => not_not.mp fun h => hmask ⟨h8, h⟩
    obtain ⟨n, hn⟩ : ∃ n : SourceNo, n.val = src.toNat := ⟨⟨src.toNat, not_le.mp hsrc⟩, rfl⟩
    have hsource : s1.source n = s.source n := by simp [s1]
    obtain ⟨t, ht, hans⟩ := executes_answered s _ f true (fun t => t.serveClearEvents [src, mask]) hx .ok _
      (s1.serveClearEvents_clears src mask n hn hm) rfl (.inl rfl)
    refine ⟨t, ht, fun h => absurd h bad, fun m hmn _ => ?_⟩
    obtain rfl : m = n := Fin.ext (hmn.trans hn.symm)
    have again := (s1.clearBits m mask).serviceAgain_spec m ((s.source m).set &&& mask)
    have hbay (b : BayNo) : (s1.clearBits m mask).bay b = s.bay b := by simp [s1, State.clearBits]
    simp only [hbay] at again
    refine ⟨s1.clearBits m mask, (s1.clearBits m mask).serviceAgain m ((s.source m).set &&& mask), s1.clearEvents m mask, ?_,
      again, ?_, ?_⟩
    · rw [State.clearBits, hsource]
    · rw [State.clearEvents, hsource]
      exact State.noticeTest_spec _ m
    · rw [← hsource]
      exact hans

/-! ## Configuration (R178 to R180, R182) -/

theorem baysNamed?_one (byte : Byte) (b : BayNo) (h : byte.toNat = b.val) : baysNamed? byte = some [b] := by
  have hne : byte ≠ 0xFF := fun he => by
    have h255 : b.val = 255 := h ▸ he ▸ rfl
    omega
  rw [baysNamed?, if_neg hne, bayOf?_some byte b h]
  rfl

theorem baysNamed?_none (byte : Byte) (h8 : 8 ≤ byte.toNat) (hne : byte ≠ 0xFF) : baysNamed? byte = none := by
  rw [baysNamed?, if_neg hne, bayOf?_none byte h8]
  rfl

/-- A record in range for the bays that the request names (R180). -/
theorem State.serveSetBayConfig_stores (s : State) (byte : Byte) (bs : List BayNo) (c : BayConfig)
    (hb : baysNamed? byte = some bs) (hc : bayConfigInRange c) :
    s.serveSetBayConfig (byte :: bayConfigBytes c) = (bs.foldl (fun t b => t.storeBayConfig b c) s, .ok, []) := by
  simp only [State.serveSetBayConfig, byteAt, List.getD_cons_zero, hb, List.drop_succ_cons, List.drop_zero,
    bayConfigOf?_bytes c hc]

/-- A bay field that names no bay, or a record with an item out of range (R180). -/
theorem State.serveSetBayConfig_refused (s : State) (byte : Byte) (l : List Byte) (hl : l.length = 10)
    (h : 8 ≤ byte.toNat ∧ byte ≠ 0xFF ∨ ¬∃ c, bayConfigInRange c ∧ l = bayConfigBytes c) :
    s.serveSetBayConfig (byte :: l) = s.refused .badArgument := by
  simp only [State.serveSetBayConfig, byteAt, List.getD_cons_zero, List.drop_succ_cons, List.drop_zero]
  split
  · next bs c hb hc =>
    rcases h with ⟨h8, hne⟩ | h
    · cases (baysNamed?_none byte h8 hne).symm.trans hb
    · exact absurd ⟨c, bayConfigOf?_some l c hl hc⟩ h
  · rfl

/-- SET-LINK-CONFIG by the ranges of R179 (R180). -/
theorem State.serveSetLinkConfig_eq (s : State) (th tl r : Byte) :
    s.serveSetLinkConfig [th, tl, r] =
      if 5 ≤ (word th tl).toNat ∧ (word th tl).toNat ≤ 1000 ∧ 1 ≤ r.toNat ∧ r.toNat ≤ 8 then
        (s.setLinkConfig { ackTimeout := word th tl, retryLimit := r }, .ok, [])
      else s.refused .badArgument := by
  simp only [State.serveSetLinkConfig, linkConfigOf?, wordAt, byteAt, List.getD_cons_zero, List.getD_cons_succ]
  split_ifs <;> rfl

/-- SET-BAY-CONFIG that executes with a record in range stores it for the bays named, one after another. -/
theorem executes_setBayConfig (q byte : Byte) (bs : List BayNo) (c : BayConfig) (s : State)
    (hb : baysNamed? byte = some bs) (hc : bayConfigInRange c) (hx : Executes s ⟨0x18, q, byte :: bayConfigBytes c⟩) :
    ∃ t, exec (.setBayConfig q (byte :: bayConfigBytes c)) s = .next t.fillLine ∧
      AnsweredFrom
        (bs.foldl (fun t b => t.storeBayConfig b c) (s.popArrival ⟨0x18, q, byte :: bayConfigBytes c⟩)) t
        ⟨0x18, q, byte :: bayConfigBytes c⟩ 0x00 [] :=
  executes_answered s _ _ (lengthIs 11 (byte :: bayConfigBytes c)) (fun t => t.serveSetBayConfig (byte :: bayConfigBytes c)) hx
    .ok [] (State.serveSetBayConfig_stores _ byte bs c hb hc) rfl (.inl rfl)

/-- SET-BAY-CONFIG that executes with a bay field or an item out of range (R180). -/
theorem executes_setBayConfig_refused (q byte : Byte) (l : List Byte) (s : State) (hl : l.length = 10)
    (hx : Executes s ⟨0x18, q, byte :: l⟩)
    (h : 8 ≤ byte.toNat ∧ byte ≠ 0xFF ∨ ¬∃ c, bayConfigInRange c ∧ l = bayConfigBytes c) :
    ∃ t, exec (.setBayConfig q (byte :: l)) s = .next t.fillLine ∧
      AnsweredFrom (s.popArrival ⟨0x18, q, byte :: l⟩) t ⟨0x18, q, byte :: l⟩ 0x13 [] :=
  executes_answered s _ _ (lengthIs 11 (byte :: l)) (fun t => t.serveSetBayConfig (byte :: l)) hx .badArgument []
    (State.serveSetBayConfig_refused _ byte l hl h) (by simp [lengthIs, hl]) (.inr rfl)

/-- Settles the first part of O44: one bay, all eight, a request out of range, and the link configuration. -/
theorem configurationIsStored : Claims.ConfigurationIsStored := by
  refine ⟨?_, ?_, fun q byte l s hl hx h => executes_setBayConfig_refused q byte l s hl hx h, ?_⟩
  · intro q byte c b s hb hc p f hx
    obtain ⟨t, ht, hans⟩ := executes_setBayConfig q byte [b] c s (baysNamed?_one byte b hb) hc hx
    exact ⟨t, _, ht, hans, State.storeBayConfig_spec c b _⟩
  · intro q c s hc p hx
    obtain ⟨t, ht, hans⟩ := executes_setBayConfig q 0xFF (List.finRange 8) c s rfl hc hx
    obtain ⟨hframe, hlink, hstored⟩ := storeBayConfigs_spec (List.finRange 8) c (s.popArrival ⟨0x18, q, p⟩)
    refine ⟨t, _, ht, hans, storeBayConfigs_chain c (List.finRange 8) _, fun b => ?_, hlink.trans (by simp), hframe⟩
    rw [hstored, if_pos (List.mem_finRange b)]
  · intro q th tl r s f good hx
    by_cases hgood : good
    · obtain ⟨t, ht, hans⟩ := executes_answered s ((s.popArrival f).setLinkConfig ⟨word th tl, r⟩) f true
        (fun t => t.serveSetLinkConfig [th, tl, r]) hx .ok []
        ((State.serveSetLinkConfig_eq _ th tl r).trans (if_pos hgood)) rfl (.inl rfl)
      have hconfig : (s.popArrival f).config = s.config := by simp
      rw [State.setLinkConfig, hconfig] at hans
      exact ⟨t, ht, fun _ => hans, fun h => absurd hgood h⟩
    · obtain ⟨t, ht, hans⟩ := executes_refused s f (fun t => t.serveSetLinkConfig [th, tl, r]) .badArgument hx
        ((State.serveSetLinkConfig_eq _ th tl r).trans (if_neg hgood))
      exact ⟨t, ht, fun h => absurd h hgood, fun _ => hans⟩

theorem latchActionCode_eq (a : LatchAction) : latchActionCode a = if a = .orderly then 0x00 else 0x01 := by
  cases a <;> rfl

theorem attentionActionCode_eq (a : AttentionAction) :
    attentionActionCode a = if a = .nothing then 0x00 else 0x01 := by
  cases a <;> rfl

/-- Settles the second part of O44. -/
theorem configurationIsReported : Claims.ConfigurationIsReported := by
  refine fun q byte b s hb => ⟨fun hx => ?_, fun hx => ?_⟩
  · have hbay : (s.popArrival ⟨0x19, q, [byte]⟩).bayConfig b = s.bayConfig b := by simp
    have hserve := State.forBay_some (s.popArrival ⟨0x19, q, [byte]⟩) byte b
      (fun b => (s.popArrival ⟨0x19, q, [byte]⟩, .ok, bayConfigBytes ((s.popArrival ⟨0x19, q, [byte]⟩).bayConfig b))) hb
    rw [hbay, bayConfigBytes, latchActionCode_eq, attentionActionCode_eq] at hserve
    exact executes_answered s _ ⟨0x19, q, [byte]⟩ true (fun t => t.serveGetBayConfig [byte]) hx .ok _ hserve rfl (.inl rfl)
  · have hserve : (s.popArrival ⟨0x1B, q, []⟩).serveGetLinkConfig =
        (s.popArrival ⟨0x1B, q, []⟩, .ok, linkConfigBytes s.config.link) := by simp [State.serveGetLinkConfig]
    exact executes_answered s _ ⟨0x1B, q, []⟩ true State.serveGetLinkConfig hx .ok _ hserve rfl (.inl rfl)

/-- Settles O44. -/
theorem configurationIsStoredAndReported : Obligations.ConfigurationIsStoredAndReported :=
  ⟨configurationIsStored, configurationIsReported⟩

end Sys2Proof.Machine
end

section
/-! PROOFS. The law of event notices (R134, R138, R147) through the operations on the event sources and the notice lists: the
notice test, a first send, the removals of an ACK, and the start and end of a session. -/

namespace Sys2Proof.Machine

open Sys2Proof.Claims

/-! ## Operations that move no event notice -/

/-- The notice stages and captures, and the event notices in both lists, stand as they did. A re-notify mark may have been set
in stage SENT, and the link may have come up. -/
structure State.EventsKept (s t : State) : Prop where
  stage : ∀ n, (t.source n).stage = (s.source n).stage
  capture : ∀ n, (t.source n).capture = (s.source n).capture
  renotify : ∀ n, (t.source n).renotify = true → (s.source n).renotify = true ∨ (s.source n).stage = .sent
  pending : ∀ n, t.transmitter.pending.count (.event n) = s.transmitter.pending.count (.event n)
  unacked : ∀ n, (t.transmitter.unacked.map Unacked.notice).count (.event n) =
    (s.transmitter.unacked.map Unacked.notice).count (.event n)
  down : t.handler.link = .down → s.handler.link = .down

theorem State.EventsLegal.kept {s t : State} (h : s.EventsLegal) (hk : s.EventsKept t) : t.EventsLegal := by
  obtain ⟨hlaw, hdown⟩ := h
  refine ⟨fun n => ?_, fun hl n => ?_⟩
  · obtain ⟨hp, hu, hc, hr⟩ := hlaw n
    rw [hk.pending, hk.unacked, hk.stage, hk.capture]
    exact ⟨hp, hu, hc, fun h => (hk.renotify n h).elim hr id⟩
  · rw [hk.stage]
    exact hdown (hk.down hl) n

/-- The Event Reporter stands, and so do the notices of both lists but for JOB-DONE notices. -/
theorem State.EventsKept.of_lists {s t : State} (hr : t.reporter = s.reporter)
    (hp : ∀ n, t.transmitter.pending.count (.event n) = s.transmitter.pending.count (.event n))
    (hu : t.transmitter.unacked.map Unacked.notice = s.transmitter.unacked.map Unacked.notice)
    (hl : t.handler.link = .down → s.handler.link = .down) : s.EventsKept t := by
  have same (n : SourceNo) : t.source n = s.source n := by simp only [State.source, hr]
  exact ⟨fun n => by rw [same], fun n => by rw [same], fun n h => .inl (same n ▸ h), hp, fun n => by rw [hu], hl⟩

/-- An operation that leaves the Event Reporter, the Notice Transmitter and the link state as they were. -/
theorem State.EventsLegal.same {s t : State} (h : s.EventsLegal) (hr : t.reporter = s.reporter := by simp)
    (ht : t.transmitter = s.transmitter := by simp) (hl : t.handler.link = s.handler.link := by simp) : t.EventsLegal :=
  h.kept (.of_lists hr (fun _ => by rw [ht]) (by rw [ht]) fun hd => hl ▸ hd)

/-- A source record written with its stage and capture as they were. -/
theorem State.EventsLegal.setSource {s : State} (h : s.EventsLegal) (n : SourceNo) {r : SourceRecord}
    (hs : r.stage = (s.source n).stage) (hc : r.capture = (s.source n).capture)
    (hr : r.renotify = true → (s.source n).renotify = true ∨ (s.source n).stage = .sent) :
    (s.setSource n r).EventsLegal := by
  refine h.kept ⟨fun m => ?_, fun m => ?_, fun m => ?_, fun _ => rfl, fun _ => rfl, id⟩
  all_goals
    by_cases hm : m = n
    · subst hm
      rw [State.setSource_source_self]
      assumption
    · simp +contextual [hm]

/-! ## The notice test, and what leads to it (R135, R138, R139, R144, R180) -/

/-- The notice test queues one notice of a source that has none (R138). -/
theorem State.EventsLegal.noticeTest {s : State} (h : s.EventsLegal) (n : SourceNo) : (s.noticeTest n).EventsLegal := by
  unfold State.noticeTest
  split
  · next hdue =>
    obtain ⟨-, hstage, hup⟩ := hdue
    refine ⟨fun m => ?_, fun hd => absurd hd hup⟩
    obtain ⟨hp, hu, hc, hr⟩ := h.1 m
    by_cases hm : m = n
    · subst hm
      simp_all [State.queueNotice]
    · have hne : n ≠ m := Ne.symm hm
      simpa [State.queueNotice, hm, hne] using ⟨hp, hu, hc, hr⟩
  · exact h

theorem State.EventsLegal.newlyEnabled {s : State} (h : s.EventsLegal) (n : SourceNo) :
    (s.newlyEnabled n).EventsLegal := by
  unfold State.newlyEnabled
  split
  · exact h.noticeTest n
  · exact h
  · next hsent => exact h.setSource n rfl rfl fun _ => .inr hsent

theorem State.EventsLegal.recordRaise {s : State} (h : s.EventsLegal) (n : SourceNo) (bits : Byte) :
    (s.recordRaise n bits).EventsLegal := by
  have joined : (s.setSource n { s.source n with set := (s.source n).set ||| bits }).EventsLegal :=
    h.setSource n rfl rfl .inl
  simp only [State.recordRaise]
  split
  · exact joined.newlyEnabled n
  · exact joined

theorem State.EventsLegal.clearEvents {s : State} (h : s.EventsLegal) (n : SourceNo) (mask : Byte) :
    (s.clearEvents n mask).EventsLegal := by
  have cleared : (s.clearBits n mask).EventsLegal := h.setSource n rfl rfl .inl
  refine State.EventsLegal.noticeTest ?_ n
  unfold State.serviceAgain
  split
  · exact cleared.recordRaise n _
  · exact cleared

theorem State.EventsLegal.storeBayConfig {s : State} (h : s.EventsLegal) (b : BayNo) (c : BayConfig) :
    (s.storeBayConfig b c).EventsLegal := by
  have stored : (s.setBayConfig b c).EventsLegal := h.same
  simp only [State.storeBayConfig]
  split
  · exact stored.newlyEnabled _
  · exact stored

/-! ## Notices sent (R140, R169, R170) -/

/-- A first send captures the content of the source whose notice it is (R140). -/
theorem State.sendNotice_source (s : State) (x : Notice) (rest : List Notice) (n : SourceNo) :
    (s.sendNotice x rest).source n =
      if x = .event n then { s.source n with stage := .sent, capture := some (s.captureOf n) } else s.source n := by
  cases x with
  | jobDone j => rfl
  | event m =>
    have sent : (s.sendNotice (.event m) rest).source n = (s.markSent m).source n := rfl
    rw [sent, State.markSent]
    by_cases hm : n = m
    · subst hm; simp
    · simp [hm, Ne.symm hm]

/-- The pending head is sent: an event source goes from PENDING to SENT as its notice moves (R140, R169). -/
theorem State.EventsLegal.sends {s : State} (h : s.EventsLegal) {x : Notice} {rest : List Notice}
    (hx : s.transmitter.pending = x :: rest) : (s.sendNotice x rest).EventsLegal := by
  obtain ⟨hp, hu, -, hlink⟩ := s.sendNotice_lists x rest
  have hstage (n : SourceNo) (hn : x = .event n) : (s.source n).stage = .pending := by
    by_contra hne
    have := (h.1 n).1
    simp [hx, hn, hne] at this
  refine ⟨fun n => ?_, fun hd n => ?_⟩
  · obtain ⟨hpend, hsent, hc, hr⟩ := h.1 n
    rw [hp, hu, State.sendNotice_source, List.count_append, hsent]
    rw [hx, ← List.singleton_append, List.count_append] at hpend
    split
    · next hn =>
      subst hn
      rw [hstage n rfl] at hpend ⊢
      simpa using hpend
    · next hn =>
      have other : [x].count (.event n) = 0 := List.count_eq_zero.mpr (by simpa using Ne.symm hn)
      rw [other, zero_add] at hpend
      rw [other, add_zero]
      exact ⟨hpend, rfl, hc, hr⟩
  · have hnone := h.2 (hlink ▸ hd) n
    rw [State.sendNotice_source, if_neg, hnone]
    intro hn
    cases (hstage n hn).symm.trans hnone

theorem State.EventsLegal.boundary {s : State} (h : s.EventsLegal) : s.boundary.EventsLegal := by
  unfold State.boundary
  split
  · exact h.same rfl rfl rfl
  · split
    · unfold State.offerNotice
      split
      · exact h.kept (.of_lists rfl (fun _ => rfl) (map_notice_clearFirstDue _) id)
      · split
        · split
          · next hp => exact h.sends hp
          · exact h
        · exact h
    · exact h

theorem State.EventsLegal.fillLine {s : State} (h : s.EventsLegal) : s.fillLine.EventsLegal := by
  unfold State.fillLine
  split
  · exact h.boundary
  · exact h

/-! ## The removals of an ACK (R142, R171) -/

/-- The state with these entries still at the head of its unacknowledged list: an ACK takes the entries out of the list first,
and hands their removals to the owners after. -/
def State.withSent (s : State) (l : List Unacked) : State :=
  s.setTransmitter { s.transmitter with unacked := l ++ s.transmitter.unacked }

theorem State.noticeTest_withSent (s : State) (l : List Unacked) (n : SourceNo) :
    (s.noticeTest n).withSent l = (s.withSent l).noticeTest n := by
  have same : (s.withSent l).source n = s.source n ∧ (s.withSent l).mask n = s.mask n ∧
    (s.withSent l).handler = s.handler := ⟨rfl, rfl, rfl⟩
  obtain ⟨hsource, hmask, hhandler⟩ := same
  unfold State.noticeTest
  rw [hsource, hmask, hhandler]
  split <;> rfl

/-- One entry more at the head of the list counts for the source that its notice names. -/
theorem State.withSent_cons_count (s : State) (u : Unacked) (l : List Unacked) (n : SourceNo) :
    ((s.withSent (u :: l)).transmitter.unacked.map Unacked.notice).count (.event n) =
      ((s.withSent l).transmitter.unacked.map Unacked.notice).count (.event n) + if u.notice = .event n then 1 else 0 := by
  simp [State.withSent, List.count_cons]

/-- The source of a notice removed is in stage NONE, its capture gone (R142). -/
theorem State.EventsLegal.unstaged {s : State} {u : Unacked} {l : List Unacked} {n : SourceNo}
    (h : (s.withSent (u :: l)).EventsLegal) (hn : u.notice = .event n) :
    ((s.setSource n { s.source n with stage := .noNotice, capture := none, renotify := false }).withSent l).EventsLegal := by
  generalize hr : ({ s.source n with stage := .noNotice, capture := none, renotify := false } : SourceRecord) = r
  have hnone : r.stage = .noNotice ∧ r.capture = none ∧ r.renotify = false := by subst hr; exact ⟨rfl, rfl, rfl⟩
  obtain ⟨hstage, hcapture, hrenotify⟩ := hnone
  have hsource (m : SourceNo) : ((s.setSource n r).withSent l).source m = if m = n then r else s.source m := by
    split
    · next hm => subst hm; exact State.setSource_source_self s m r
    · next hm => exact State.setSource_source_ne s n m r hm
  have hlists : ((s.setSource n r).withSent l).transmitter = (s.withSent l).transmitter := rfl
  refine ⟨fun m => ?_, fun hd m => ?_⟩
  · obtain ⟨hp, hu, hcap, hmark⟩ := h.1 m
    rw [State.withSent_cons_count, hn] at hu
    rw [hsource, hlists]
    by_cases hm : m = n
    · -- the one notice of the source was the entry removed
      subst hm
      rw [if_pos rfl] at hu
      have hsent : ((s.withSent (u :: l)).source m).stage = .sent := by
        by_contra hne
        rw [if_neg hne] at hu
        cases hu
      rw [hsent] at hp hu
      simp only [if_true, hstage, hcapture, hrenotify]
      exact ⟨hp, Nat.succ.inj hu, by simp⟩
    · rw [if_neg fun e => hm (Notice.event.inj e).symm] at hu
      rw [if_neg hm]
      exact ⟨hp, hu, hcap, hmark⟩
  · rw [hsource]
    split
    · exact hstage
    · exact h.2 hd m

theorem State.EventsLegal.noticeRemoved {s : State} {u : Unacked} {l : List Unacked}
    (h : (s.withSent (u :: l)).EventsLegal) : ((s.noticeRemoved u.notice).withSent l).EventsLegal := by
  cases hn : u.notice with
  | jobDone j =>
    refine h.kept ⟨fun _ => rfl, fun _ => rfl, fun _ => .inl, fun _ => rfl, fun n => ?_, id⟩
    simp [State.withSent, State.noticeRemoved, State.freeSlot, hn]
  | event n =>
    have cleared := h.unstaged hn
    simp only [State.noticeRemoved, State.eventRemoved]
    split
    · rw [State.noticeTest_withSent]
      exact cleared.noticeTest n
    · exact cleared

theorem State.EventsLegal.noticesRemoved (l : List Unacked) : ∀ {s : State}, (s.withSent l).EventsLegal →
    (l.foldl (fun t u => t.noticeRemoved u.notice) s).EventsLegal := by
  induction l with
  | nil => exact fun h => h
  | cons u l ih => exact fun h => ih h.noticeRemoved

theorem State.EventsLegal.acks {s : State} (h : s.EventsLegal) (i : Nat) : (s.removeUpTo i).EventsLegal := by
  have taken : State.EventsLegal (State.withSent
      (s.setTransmitter { s.transmitter with unacked := s.transmitter.unacked.drop (i + 1), retries := 0 })
      (s.transmitter.unacked.take (i + 1))) :=
    h.kept (.of_lists rfl (fun _ => rfl) (congrArg (List.map _) (List.take_append_drop _ _)) id)
  exact (State.EventsLegal.noticesRemoved _ taken).kept (.of_lists rfl (fun _ => rfl) rfl id)

/-! ## Sessions, the ack timer and reset (R134, R146, R147, R158, R163, R174 to R177) -/

/-- A session start tests every source (R146). -/
theorem State.EventsLegal.startSession {s : State} (h : s.EventsLegal) (nonce : Word16) :
    (s.startSession nonce).EventsLegal := by
  simp only [State.startSession, State.startNotices]
  refine List.foldlRecOn sessionOrder State.noticeTest ?_ fun t ht n _ => State.EventsLegal.noticeTest ht n
  exact h.kept (.of_lists rfl (fun _ => rfl) rfl nofun)

/-- After a session end no notice stands and every stage is NONE, whatever was before (R134, R177). -/
theorem State.eventsLegal_endSession (s : State) (kept : List QueuedReply) : (s.endSession kept).EventsLegal := by
  obtain ⟨heq, -, -, -, -, hsource⟩ := s.endSession_spec kept
  have hp : (s.endSession kept).transmitter.pending = [] := by rw [heq]
  have hu : (s.endSession kept).transmitter.unacked = [] := by rw [heq]
  exact ⟨fun n => by simp [hp, hu, hsource], fun _ n => by simp [hsource]⟩

theorem State.eventsLegal_hardwareReset (s : State) (cause : ResetCause) (straps : BitVec 2) :
    (s.hardwareReset cause straps).EventsLegal :=
  State.reset_eventsLegal.kept ⟨fun _ => rfl, fun _ => rfl, fun _ => .inl, fun _ => rfl, fun _ => rfl, id⟩

theorem State.EventsLegal.unstall {s : State} (h : s.EventsLegal) : s.unstall.EventsLegal := by
  unfold State.unstall
  split
  · exact h.kept (.of_lists rfl (fun _ => rfl) (map_notice_markDue _) nofun)
  · exact h

theorem State.EventsLegal.ackExpired {s : State} (h : s.EventsLegal) : s.ackExpired.EventsLegal := by
  simp only [State.ackExpired]
  split
  · exact h.kept (.of_lists rfl (fun _ => rfl) (map_notice_markDue _) id)
  · exact h.kept (.of_lists rfl (fun _ => rfl) rfl nofun)

end Sys2Proof.Machine
end

section
/-! PROOFS. Every command, and so every step, keeps the law of event notices (R134, R138, R140, R142, R147). -/

namespace Sys2Proof.Machine

open Sys2Proof.Claims

theorem State.EventsLegal.ite {s t : State} {p : Prop} [Decidable p] (ht : p → t.EventsLegal) (hs : ¬p → s.EventsLegal) :
    (if p then t else s).EventsLegal := by
  split
  · next hp => exact ht hp
  · next hp => exact hs hp

/-! ## The end of a job, and a bay's work taken away -/

/-- A job that ends queues a JOB-DONE notice at most (R95). -/
theorem State.EventsLegal.endJob {s : State} (h : s.EventsLegal) (j : SlotNo) (st : JobStatus) (o n : Nat) :
    (s.endJob j st o n).EventsLegal := by
  refine h.kept (.of_lists (by simp) (fun m => ?_) ?_ (by simp)) <;> rw [State.endJob_transmitter] <;> split <;> simp

theorem State.EventsLegal.endQueue {s : State} (h : s.EventsLegal) (b : BayNo) (st : JobStatus) :
    (s.endQueue b st).EventsLegal :=
  List.foldlRecOn (s.queue b) _ h fun _ ht j _ => State.EventsLegal.endJob ht j st 0 0

theorem State.EventsLegal.instruct {s : State} (h : s.EventsLegal) (b : BayNo) (i : BayInstruction) :
    (s.instruct b i).EventsLegal := by
  have ended := h.endQueue b i.status
  simp only [State.instruct]
  split
  · exact ended.same
  · exact ended.same

theorem State.EventsLegal.takeWork {s : State} (h : s.EventsLegal) (b : BayNo) (i : BayInstruction) :
    (s.takeWork b i).EventsLegal := (h.instruct b i).same (t := State.leaveRead _ b _)

theorem State.EventsLegal.setBay {s : State} (h : s.EventsLegal) (b : BayNo) (r : Bay) : (s.setBay b r).EventsLegal :=
  h.same

theorem State.EventsLegal.actBay {s : State} (h : s.EventsLegal) (b : BayNo) (f : Bay → Bay × Byte) :
    (s.actBay b f).EventsLegal := h.same

theorem State.EventsLegal.faultBay {s : State} (h : s.EventsLegal) (b : BayNo) (k : FaultCause) :
    (s.faultBay b k).EventsLegal := by
  obtain ⟨-, -, ht, -⟩ := s.faultBay_rest b k
  exact (h.takeWork b .bayFault).same (ht := ht)

theorem State.EventsLegal.busFault {s : State} (h : s.EventsLegal) (b : BayNo) : (s.busFault b).EventsLegal :=
  .ite (fun _ => h) fun _ => h.faultBay b .bus

theorem State.EventsLegal.testPower {s : State} (h : s.EventsLegal) (b : BayNo) : (s.testPower b).EventsLegal :=
  .ite (fun _ => h.faultBay b .power) fun _ => h

theorem State.EventsLegal.enterPowering {s : State} (h : s.EventsLegal) (b : BayNo) (o : Origin) :
    (s.enterPowering b o).EventsLegal := by
  have entered := h.setBay b (((s.bay b).accept .powerOn o).ramp (s.bayConfig b))
  simp only [State.enterPowering]
  exact .ite (fun _ => entered.faultBay b .power) fun _ => .ite (fun _ => entered.setBay b _) fun _ => entered

theorem State.EventsLegal.powerOff {s : State} (h : s.EventsLegal) (b : BayNo) (o : Origin) :
    (s.powerOff b o).EventsLegal := (h.takeWork b _).actBay b _

theorem State.EventsLegal.latchOpened {s : State} (h : s.EventsLegal) (b : BayNo) : (s.latchOpened b).EventsLegal := by
  unfold State.latchOpened
  split <;> exact (h.takeWork b _).actBay b _

theorem State.EventsLegal.holdOffExpired {s : State} (h : s.EventsLegal) (b : BayNo) (x : HoldOffTarget) :
    (s.holdOffExpired b x).EventsLegal := by
  have ended := h.setBay b (s.bay b).endHoldOff
  cases x with
  | off => exact .ite (fun _ => ended.powerOff b .button) fun _ => ended
  | on => exact .ite (fun _ => ended.enterPowering b .button) fun _ => ended

/-! ## Reports, the bus and time -/

theorem State.EventsLegal.takeReport {s : State} (h : s.EventsLegal) {α : Type} {sel : Report → Option α}
    {act : α → State → State} (hact : ∀ (a : α) (t : State), t.EventsLegal → (act a t).EventsLegal) :
    (s.takeReport sel act).EventsLegal := by
  unfold State.takeReport
  split
  · exact h
  · exact hact _ _ h.same

theorem State.EventsLegal.account {s : State} (h : s.EventsLegal) (b : BayNo) (x : Ending) :
    (s.account b x).EventsLegal := by
  simp only [State.account]
  exact .ite (fun _ => (h.setBay b _).busFault b) fun _ => h.setBay b _

theorem State.EventsLegal.takeReadEnding {s : State} (h : s.EventsLegal) (b : BayNo) (x : ReadEnding) :
    (s.takeReadEnding b x).EventsLegal := by
  have counted : (s.countTimeout b x.ending).EventsLegal := h.same
  have gone : ((s.countTimeout b x.ending).setRead b .noRead).EventsLegal := counted.same
  refine .ite (fun _ => ?_) fun _ => counted
  unfold State.takeOutcome
  split
  · exact gone.actBay b _
  · exact gone.faultBay b .identity

theorem State.EventsLegal.takeJobEnding {s : State} (h : s.EventsLegal) (j : SlotNo) (x : Ending) (o n : Nat) :
    (s.takeJobEnding j x o n).EventsLegal := by
  have counted : (s.countTimeout (s.slot j).bay x).EventsLegal := h.same
  have drawn (m : Nat) : ((s.countTimeout (s.slot j).bay x).setDraws m).EventsLegal := counted.same
  refine .ite (fun _ => ?_) fun _ => h
  dsimp only
  split
  · exact counted.endJob j _ o n
  · exact (drawn _).endJob j _ o n

theorem State.EventsLegal.grant {s : State} (h : s.EventsLegal) : s.grant.EventsLegal := by
  refine .ite (fun _ => ?_) fun _ => h
  split
  · exact h.same (by simp [State.grantRead]) (by simp [State.grantRead]) (by simp [State.grantRead])
  · exact h.same (by simp [State.grantJob]) (by simp [State.grantJob]) (by simp [State.grantJob])
  · exact h

theorem State.EventsLegal.runEngine {s : State} (h : s.EventsLegal) (f : Engine → Engine × List Report) :
    (s.runEngine f).EventsLegal := h.same

theorem State.EventsLegal.takeOffer {s : State} (h : s.EventsLegal) : s.takeOffer.EventsLegal := by
  refine .ite (fun _ => State.EventsLegal.runEngine ?_ _) fun _ => h
  unfold State.storeOffer
  split
  · exact h.same
  · exact h

theorem State.EventsLegal.idle {s : State} (h : s.EventsLegal) : s.idle.EventsLegal := by
  have queued (l : List Instr) : ({ s with pending := l } : State).EventsLegal := h.same rfl rfl rfl
  unfold State.idle
  split
  · exact queued _
  · refine .ite (fun _ => queued _) fun _ => .ite (fun _ => queued _) fun _ => ?_
    split
    · exact queued _
    · exact h.kept (.of_lists rfl (fun _ => rfl) rfl id)

theorem State.EventsLegal.frameSent {s : State} (h : s.EventsLegal) :
    ∃ t, exec .frameSent s = .next t ∧ t.EventsLegal := by
  refine ⟨_, rfl, ?_⟩
  split
  · have idle : (s.setPort { s.port with sending := none }).EventsLegal := h.same
    simp only [State.frameEnded]
    refine .ite (fun _ => State.eventsLegal_hardwareReset _ _ _) fun _ => .ite (fun _ => ?_) fun _ => idle.boundary
    exact State.EventsLegal.boundary (.ite (fun _ => idle.kept (.of_lists rfl (fun _ => rfl) rfl id)) fun _ => idle)
  · exact h.boundary

/-! ## Requests -/

theorem State.EventsLegal.takeFrame {s : State} (h : s.EventsLegal) (f : Frame) : (s.takeFrame f).EventsLegal :=
  (h.same (t := s.popArrival f)).unstall

/-- A frame that settles before step 7 of R154 reaches no notice. -/
theorem State.EventsLegal.settled {s t : State} (h : s.EventsLegal) {f : Frame} (ht : s.settled? f = some t) :
    t.EventsLegal := by
  unfold State.settled? at ht
  split at ht
  · cases ht; exact h.same rfl rfl rfl
  · split at ht
    · cases ht; exact h.same rfl rfl rfl
    · obtain ⟨r, -, rfl⟩ := Option.map_eq_some_iff.mp ht
      exact h.same rfl rfl rfl

theorem State.EventsLegal.answer {s : State} (h : s.EventsLegal) (f r : Frame) : (s.answer f r).EventsLegal :=
  h.same rfl rfl rfl

/-- A request keeps the law where its service does. -/
theorem State.EventsLegal.request {s : State} (h : s.EventsLegal) {f : Frame} {good : Bool} {serve : State → Served}
    (hserve : ∀ t : State, t.EventsLegal → (serve t).1.EventsLegal) : (s.request f good serve).fillLine.EventsLegal := by
  have taken := h.takeFrame f
  refine State.EventsLegal.fillLine ?_
  simp only [State.request]
  split
  · next ht => exact taken.settled ht
  · exact .ite (fun _ => (hserve _ taken).answer f _) fun _ => taken.answer f _

theorem State.EventsLegal.forBay {s : State} (h : s.EventsLegal) {byte : Byte} {serve : BayNo → Served}
    (hserve : ∀ b, (serve b).1.EventsLegal) : (s.forBay byte serve).1.EventsLegal := by
  unfold State.forBay
  split
  · exact hserve _
  · exact h

theorem State.EventsLegal.requestEnd {s : State} (h : s.EventsLegal) (f : Frame) (restart : Bool) :
    (s.requestEnd f restart).EventsLegal := by
  have taken := h.takeFrame f
  simp only [State.requestEnd]
  split
  · next ht => exact taken.settled ht
  · exact .ite (fun _ => State.eventsLegal_endSession _ _) fun _ => taken.answer f _

theorem State.EventsLegal.requestUnknown {s : State} (h : s.EventsLegal) (f : Frame) :
    (s.requestUnknown f).EventsLegal := by
  have taken := h.takeFrame f
  simp only [State.requestUnknown]
  split
  · next ht => exact taken.settled ht
  · exact .ite (fun _ => taken.answer f _) fun _ => taken.answer f _

theorem State.EventsLegal.requestOpen {s : State} (h : s.EventsLegal) (f : Frame) : (s.requestOpen f).EventsLegal := by
  have taken := h.takeFrame f
  have started {t : State} (ht : t.EventsLegal) (nonce : Word16) : ((t.startSession nonce).answerOpen f).EventsLegal :=
    (ht.startSession nonce).same rfl rfl rfl
  simp only [State.requestOpen]
  refine .ite (fun _ => taken.same rfl rfl rfl) fun _ => .ite (fun _ => .ite (fun _ => started taken _) fun _ =>
    .ite (fun _ => taken.same rfl rfl rfl) fun _ => started (State.eventsLegal_endSession _ _) _) fun _ => ?_
  exact .ite (fun _ => taken.same rfl rfl rfl) fun _ => taken.same rfl rfl rfl

theorem State.EventsLegal.requestAck {s : State} (h : s.EventsLegal) (f : Frame) : (s.requestAck f).EventsLegal := by
  have taken := h.takeFrame f
  simp only [State.requestAck]
  refine .ite (fun _ => taken) fun _ => .ite (fun _ => ?_) fun _ => taken.same rfl rfl rfl
  unfold State.takeAck
  split
  · exact taken.acks _
  · exact taken.same rfl rfl rfl

theorem State.EventsLegal.servePowerOn {s : State} (h : s.EventsLegal) (b : BayNo) :
    (s.servePowerOn b).1.EventsLegal := by
  unfold State.servePowerOn
  split
  case h_2 =>
    split
    · exact h.enterPowering b .link
    · exact h
  all_goals exact h

theorem State.EventsLegal.adopt {s : State} (h : s.EventsLegal) (b : BayNo) : (s.adopt b).1.EventsLegal := by
  unfold State.adopt
  split
  · exact h
  · exact h.setBay b _

theorem State.EventsLegal.servePowerOff {s : State} (h : s.EventsLegal) (b : BayNo) :
    (s.servePowerOff b).1.EventsLegal := by
  have superseded : (s.supersede b).EventsLegal := (h.takeWork b _).actBay b _
  unfold State.servePowerOff
  split
  case h_4 | h_5 | h_6 => exact superseded
  case h_7 =>
    dsimp only
    exact h.powerOff b .link
  case h_8 | h_9 => exact h.adopt b
  all_goals exact h

theorem State.EventsLegal.serveResetModule {s : State} (h : s.EventsLegal) (b : BayNo) :
    (s.serveResetModule b).1.EventsLegal := by
  unfold State.serveResetModule
  split
  case h_4 => exact (h.takeWork b .bayReset).setBay b _
  all_goals exact h

theorem State.EventsLegal.serveClearFault {s : State} (h : s.EventsLegal) (b : BayNo) :
    (s.serveClearFault b).1.EventsLegal := by
  unfold State.serveClearFault
  split
  case h_2 =>
    split
    · exact h
    · exact h.setBay b _
  all_goals exact h

theorem State.EventsLegal.serveIndicate {s : State} (h : s.EventsLegal) (p : List Byte) :
    (s.serveIndicate p).1.EventsLegal := by
  refine h.forBay fun b => ?_
  split
  · split
    · exact h.setBay b _
    · exact h
  · exact h

theorem State.EventsLegal.serveSubmit {s : State} (h : s.EventsLegal) (p : List Byte) :
    (s.serveSubmit p).1.EventsLegal := by
  unfold State.serveSubmit
  split
  · exact h
  · split
    · exact h.same rfl rfl rfl
    · exact h
    · exact h

theorem State.EventsLegal.serveCancel {s : State} (h : s.EventsLegal) (p : List Byte) :
    (s.serveCancel p).1.EventsLegal := by
  unfold State.serveCancel
  split
  · unfold State.cancelSlot
    split
    · exact h.endJob _ _ _ _
    · exact .ite (fun _ => h.same) fun _ => h
    all_goals exact h
  · exact h

theorem State.EventsLegal.serveJobStatus {s : State} (h : s.EventsLegal) (p : List Byte) :
    (s.serveJobStatus p).1.EventsLegal := by
  unfold State.serveJobStatus
  split <;> exact h

theorem State.EventsLegal.serveClearEvents {s : State} (h : s.EventsLegal) (p : List Byte) :
    (s.serveClearEvents p).1.EventsLegal := by
  unfold State.serveClearEvents
  split
  · split
    · exact h
    · exact h.clearEvents _ _
  · exact h

theorem State.EventsLegal.serveSetBayConfig {s : State} (h : s.EventsLegal) (p : List Byte) :
    (s.serveSetBayConfig p).1.EventsLegal := by
  unfold State.serveSetBayConfig
  split
  · next bs c _ _ => exact List.foldlRecOn bs _ h fun _ ht b _ => State.EventsLegal.storeBayConfig ht b c
  · exact h

theorem State.EventsLegal.serveSetLinkConfig {s : State} (h : s.EventsLegal) (p : List Byte) :
    (s.serveSetLinkConfig p).1.EventsLegal := by
  unfold State.serveSetLinkConfig
  split
  · exact h.same
  · exact h

theorem State.EventsLegal.serveGetCounters {s : State} (h : s.EventsLegal) (p : List Byte) :
    (s.serveGetCounters p).1.EventsLegal := by
  have cleared (n : SourceNo) : (s.clearCounters n).EventsLegal := by
    unfold State.clearCounters
    split <;> exact h.same
  unfold State.serveGetCounters
  split
  · split
    · exact h
    · split
      · exact cleared _
      · exact h
  · exact h

/-! ## The whole machine -/

/-- Every command answers a next state, and keeps the law of event notices. -/
theorem exec_eventsLegal (i : Instr) {s : State} (h : s.EventsLegal) : ∃ t, exec i s = .next t ∧ t.EventsLegal := by
  cases i with
  -- the sideband inputs and the timers of a bay
  | hardwareReset cause straps => exact ⟨_, rfl, s.eventsLegal_hardwareReset cause straps⟩
  | sidebandLineEdge b line x => exact ⟨_, rfl, h.setBay b _⟩
  | presenceAssert b => exact ⟨_, rfl, .ite (fun _ => h.actBay b _) fun _ => h⟩
  | presenceLoss b => exact ⟨_, rfl, .ite (fun _ => ((h.takeWork b _).actBay b _).fillLine) fun _ => h⟩
  | latchChange b =>
    exact ⟨_, rfl, .ite (fun _ => .ite (fun _ => (h.latchOpened b).fillLine) fun _ => h.actBay b _) fun _ => h⟩
  | attentionPress b =>
    have counted : (s.setBayCounters b (s.bayCounters b).press).EventsLegal := h.same
    exact ⟨_, rfl, .ite (fun _ => counted.actBay b _) fun _ => h⟩
  | attentionRelease b => exact ⟨_, rfl, .ite (fun _ => h.setBay b _) fun _ => h⟩
  | pgoodRise b => exact ⟨_, rfl, .ite (fun _ => h) fun _ => h.setBay b _⟩
  | pgoodFall b =>
    exact ⟨_, rfl, .ite (fun _ => State.EventsLegal.fillLine
      (.ite (fun _ => (h.setBay b _).actBay b _) fun _ => (h.setBay b _).testPower b)) fun _ => h⟩
  | pfaultAssert b => exact ⟨_, rfl, .ite (fun _ => h) fun _ => ((h.setBay b _).testPower b).fillLine⟩
  | pfaultDeassert b => exact ⟨_, rfl, h.setBay b _⟩
  | srqChange b x => exact ⟨_, rfl, h.actBay b _⟩
  | powerUpExpiry b => exact ⟨_, rfl, .ite (fun _ => (h.faultBay b _).fillLine) fun _ => h⟩
  | settleExpiryPowering b => exact ⟨_, rfl, .ite (fun _ => h.setBay b _) fun _ => h⟩
  | resetPulseExpiry b => exact ⟨_, rfl, .ite (fun _ => h.setBay b _) fun _ => h⟩
  | settleExpiryResetting b => exact ⟨_, rfl, .ite (fun _ => h.setBay b _) fun _ => h⟩
  | dischargeExpiry b => exact ⟨_, rfl, .ite (fun _ => (h.faultBay b _).fillLine) fun _ => h⟩
  | holdOffExpiry b =>
    refine ⟨_, rfl, ?_⟩
    split
    · exact (h.holdOffExpired b _).fillLine
    · exact h
  | blinkToggle => exact ⟨_, rfl, h.same⟩
  -- requests that a bay serves
  | powerOn seq bay => exact ⟨_, rfl, h.request fun t ht => ht.forBay fun b => ht.servePowerOn b⟩
  | powerOff seq bay => exact ⟨_, rfl, h.request fun t ht => ht.forBay fun b => ht.servePowerOff b⟩
  | resetModule seq bay => exact ⟨_, rfl, h.request fun t ht => ht.forBay fun b => ht.serveResetModule b⟩
  | clearFault seq bay => exact ⟨_, rfl, h.request fun t ht => ht.forBay fun b => ht.serveClearFault b⟩
  | indicate seq p => exact ⟨_, rfl, h.request fun t ht => ht.serveIndicate p⟩
  | bayStatus seq p => exact ⟨_, rfl, h.request fun t ht => ht.forBay fun _ => ht⟩
  | bayIdentity seq p => exact ⟨_, rfl, h.request fun t ht => ht.forBay fun _ => ht⟩
  -- the Bus Arbiter and the Module Bus Engine
  | grant => exact ⟨_, rfl, h.grant⟩
  | mbAckRise lines =>
    exact ⟨_, rfl, .ite (fun _ => h) fun _ => ((h.same (t := s.setEngine _)).runEngine _).takeOffer⟩
  | mbAckFall => exact ⟨_, rfl, .ite (fun _ => (h.same (t := s.setEngine _)).runEngine _) fun _ => h⟩
  | mbRevackRise lines =>
    exact ⟨_, rfl, .ite (fun _ => h) fun _ => ((h.same (t := s.setEngine _)).runEngine _).takeOffer⟩
  | mbRevackFall => exact ⟨_, rfl, .ite (fun _ => (h.same (t := s.setEngine _)).runEngine _) fun _ => h⟩
  | byteTimerExpiry => exact ⟨_, rfl, .ite (fun _ => h.runEngine _) fun _ => h⟩
  | turnaroundTimerExpiry => exact ⟨_, rfl, .ite (fun _ => h.runEngine _) fun _ => h⟩
  | heldTimerExpiry => exact ⟨_, rfl, .ite (fun _ => h.runEngine _) fun _ => h⟩
  | abortRequest w => exact ⟨_, rfl, (h.takeReport fun _ _ ht => ht).runEngine _⟩
  | abandonRequest w => exact ⟨_, rfl, h.same⟩
  -- reports
  | releaseReport b => exact ⟨_, rfl, h.takeReport fun _ _ ht => ht.actBay b _⟩
  | liveCountReport b => exact ⟨_, rfl, h.takeReport fun _ _ ht => ht.actBay b _⟩
  | timeoutAccountingReport b => exact ⟨_, rfl, h.takeReport fun x _ ht => (ht.account b x).fillLine⟩
  | busFaultReport b => exact ⟨_, rfl, h.takeReport fun _ _ ht => (ht.busFault b).fillLine⟩
  | identityEndingReport b => exact ⟨_, rfl, h.takeReport fun x _ ht => (ht.takeReadEnding b x).fillLine⟩
  | jobEndingReport j => exact ⟨_, rfl, h.takeReport fun _ _ ht => (ht.takeJobEnding j _ _ _).fillLine⟩
  | eventRaise n => exact ⟨_, rfl, h.takeReport fun bits _ ht => (ht.recordRaise n bits).fillLine⟩
  -- jobs, events, configuration and counters
  | deadlineExpiry j => exact ⟨_, rfl, .ite (fun _ => (h.endJob j _ 0 0).fillLine) fun _ => h⟩
  | submit seq p => exact ⟨_, rfl, h.request fun t ht => ht.serveSubmit p⟩
  | cancel seq p => exact ⟨_, rfl, h.request fun t ht => ht.serveCancel p⟩
  | jobStatus seq p => exact ⟨_, rfl, h.request fun t ht => ht.serveJobStatus p⟩
  | clearEvents seq p => exact ⟨_, rfl, h.request fun t ht => ht.serveClearEvents p⟩
  | setBayConfig seq p => exact ⟨_, rfl, h.request fun t ht => ht.serveSetBayConfig p⟩
  | getBayConfig seq p => exact ⟨_, rfl, h.request fun t ht => ht.forBay fun _ => ht⟩
  | setLinkConfig seq p => exact ⟨_, rfl, h.request fun t ht => ht.serveSetLinkConfig p⟩
  | getLinkConfig seq p => exact ⟨_, rfl, h.request fun t ht => ht⟩
  | getCounters seq p => exact ⟨_, rfl, h.request fun t ht => ht.serveGetCounters p⟩
  -- the Carrier Link
  | linkRxByte x => exact ⟨_, rfl, h.same rfl rfl rfl⟩
  | gapExpiry => exact ⟨_, rfl, .ite (fun _ => h.same rfl rfl rfl) fun _ => h⟩
  | openSession seq p => exact ⟨_, rfl, (h.requestOpen _).fillLine⟩
  | closeSession seq p => exact ⟨_, rfl, (h.requestEnd _ _).fillLine⟩
  | restart seq p => exact ⟨_, rfl, (h.requestEnd _ _).fillLine⟩
  | ping seq p => exact ⟨_, rfl, h.request fun t ht => ht⟩
  | ack seq p => exact ⟨_, rfl, (h.requestAck _).fillLine⟩
  | unknownRequest kind seq p => exact ⟨_, rfl, (h.requestUnknown _).fillLine⟩
  | frameSent => exact h.frameSent
  | ackTimerExpiry => exact ⟨_, rfl, .ite (fun _ => h.ackExpired.fillLine) fun _ => h⟩

/-- Settles O58: what each command and the idle step keep, by the command at the front of the queue. -/
theorem eventNoticesStayLegal : Obligations.EventNoticesStayLegal := by
  intro s t h hstep
  unfold step at hstep
  split at hstep
  · next c rest _ =>
    obtain ⟨u, hu, hlegal⟩ := exec_eventsLegal c (s := { s with pending := rest }) (h.same rfl rfl rfl)
    obtain rfl : u = t := Host.Outcome.next.inj (hu.symm.trans hstep)
    exact hlegal
  · obtain rfl : s.idle = t := Host.Outcome.next.inj hstep
    exact h.idle

end Sys2Proof.Machine
end

section
/-! PROOFS. What a step can do to the link and to the settings, said once: a command leaves them, or it is a chain of a few
kinds of moves with the start of a frame on an idle LINK_TX at its end (R154 to R164, R169 to R177, R180; assumption
log 12). -/

namespace Sys2Proof.Machine

open Sys2Proof.Claims

/-! ## Operations that leave the link as it is -/

/-- Every stored setting is in its range (R178, R179). -/
def ConfigStore.InRange (c : ConfigStore) : Prop := (∀ b : BayNo, bayConfigInRange c.bays[b]) ∧ linkConfigInRange c.link

/-- The Request Handler, the Notice Transmitter and the frame on LINK_TX stand as they did; settings in range stay so. -/
structure State.LinkSame (s t : State) : Prop where
  handler : t.handler = s.handler
  transmitter : t.transmitter = s.transmitter
  sending : t.port.sending = s.port.sending
  settings : s.config.InRange → t.config.InRange

/-- The same, but notices may have joined the pending list or left it. -/
structure State.LinkKept (s t : State) : Prop where
  handler : t.handler = s.handler
  transmitter : t.transmitter = { s.transmitter with pending := t.transmitter.pending }
  sending : t.port.sending = s.port.sending
  settings : s.config.InRange → t.config.InRange

/-- An operation whose frame holds the four parts. -/
theorem State.LinkSame.frame {s t : State} (hh : t.handler = s.handler := by simp)
    (ht : t.transmitter = s.transmitter := by simp) (hp : t.port.sending = s.port.sending := by simp)
    (hc : t.config = s.config := by simp) : s.LinkSame t := ⟨hh, ht, hp, fun h => hc ▸ h⟩

theorem State.LinkSame.refl (s : State) : s.LinkSame s := .frame

theorem State.LinkSame.trans {s t u : State} (h : s.LinkSame t) (h' : t.LinkSame u) : s.LinkSame u where
  handler := h'.handler.trans h.handler
  transmitter := h'.transmitter.trans h.transmitter
  sending := h'.sending.trans h.sending
  settings := h'.settings ∘ h.settings

theorem State.LinkSame.kept {s t : State} (h : s.LinkSame t) : s.LinkKept t :=
  ⟨h.handler, by rw [h.transmitter], h.sending, h.settings⟩

theorem State.LinkKept.refl (s : State) : s.LinkKept s := (State.LinkSame.refl s).kept

theorem State.LinkKept.trans {s t u : State} (h : s.LinkKept t) (h' : t.LinkKept u) : s.LinkKept u where
  handler := h'.handler.trans h.handler
  transmitter := by rw [h'.transmitter, h.transmitter]
  sending := h'.sending.trans h.sending
  settings := h'.settings ∘ h.settings

theorem State.LinkKept.same {s t u : State} (h : s.LinkKept t) (h' : t.LinkSame u := by exact .frame) : s.LinkKept u :=
  h.trans h'.kept

theorem State.LinkKept.ite {s t u : State} {p : Prop} [Decidable p] (ht : s.LinkKept t) (hu : s.LinkKept u) :
    s.LinkKept (if p then t else u) := by
  split
  · exact ht
  · exact hu

/-- A chain of operations that each keep the link keeps it. -/
theorem State.LinkKept.foldl {α : Type} {f : State → α → State} (hf : ∀ (s : State) (a : α), s.LinkKept (f s a))
    (l : List α) (s : State) : s.LinkKept (l.foldl f s) :=
  List.foldlRecOn l f (.refl s) fun t ht a _ => ht.trans (hf t a)

/-! ## Notices that join the pending list (R95, R135, R138, R139, R144, R180) -/

theorem State.noticeTest_linkKept (s : State) (n : SourceNo) : s.LinkKept (s.noticeTest n) := by
  refine ⟨by simp, ?_, by simp, fun h => by simpa using h⟩
  rw [State.noticeTest_transmitter]
  split <;> rfl

theorem State.newlyEnabled_linkKept (s : State) (n : SourceNo) : s.LinkKept (s.newlyEnabled n) := by
  unfold State.newlyEnabled
  split
  · exact s.noticeTest_linkKept n
  · exact .refl s
  · exact (State.LinkKept.refl s).same

theorem State.recordRaise_linkKept (s : State) (n : SourceNo) (bits : Byte) : s.LinkKept (s.recordRaise n bits) := by
  have joined (r : SourceRecord) : s.LinkKept (s.setSource n r) := (State.LinkKept.refl s).same
  simp only [State.recordRaise]
  exact .ite ((joined _).trans (State.newlyEnabled_linkKept _ n)) (joined _)

theorem State.clearEvents_linkKept (s : State) (n : SourceNo) (mask : Byte) : s.LinkKept (s.clearEvents n mask) := by
  have cleared : s.LinkKept (s.clearBits n mask) := (State.LinkKept.refl s).same (u := s.setSource n _)
  refine State.LinkKept.trans ?_ (State.noticeTest_linkKept _ n)
  exact .ite (cleared.trans (State.recordRaise_linkKept _ n _)) cleared

/-- A record in range is stored for a bay (R178, R180). -/
theorem State.storeBayConfig_linkKept (s : State) (b : BayNo) (c : BayConfig) (hc : bayConfigInRange c) :
    s.LinkKept (s.storeBayConfig b c) := by
  have stored : s.LinkKept (s.setBayConfig b c) := by
    refine State.LinkSame.kept ⟨by simp, by simp, by simp, fun ⟨hbays, hlink⟩ => ⟨fun d => ?_, hlink⟩⟩
    have hd : (s.setBayConfig b c).config.bays[d] = if d = b then c else s.config.bays[d] :=
      s.setBayConfig_bayConfig b d c
    rw [hd]
    split
    · exact hc
    · exact hbays d
  simp only [State.storeBayConfig]
  exact .ite (stored.trans (State.newlyEnabled_linkKept _ _)) stored

theorem State.endJob_linkKept (s : State) (j : SlotNo) (st : JobStatus) (o n : Nat) : s.LinkKept (s.endJob j st o n) := by
  refine ⟨by simp, ?_, by simp, fun h => by simpa using h⟩
  rw [State.endJob_transmitter]
  split <;> rfl

/-! ## A bay's work taken away (R11, R12) -/

theorem State.LinkKept.takeWork {s t : State} (h : s.LinkKept t) (b : BayNo) (i : BayInstruction) :
    s.LinkKept (t.takeWork b i) := by
  have ended : s.LinkKept (t.endQueue b i.status) :=
    h.trans (.foldl (fun u j => u.endJob_linkKept j i.status 0 0) (t.queue b) t)
  have instructed : s.LinkKept (t.instruct b i) := by
    simp only [State.instruct]
    split
    · exact ended.same
    · exact ended.same
  exact instructed.same (u := State.leaveRead _ b _)

theorem State.LinkKept.faultBay {s t : State} (h : s.LinkKept t) (b : BayNo) (k : FaultCause) :
    s.LinkKept (t.faultBay b k) := by
  obtain ⟨-, -, ht, -⟩ := t.faultBay_rest b k
  exact (h.takeWork b .bayFault).same (.frame (ht := ht))

theorem State.LinkKept.busFault {s t : State} (h : s.LinkKept t) (b : BayNo) : s.LinkKept (t.busFault b) :=
  .ite h (h.faultBay b .bus)

theorem State.LinkKept.testPower {s t : State} (h : s.LinkKept t) (b : BayNo) : s.LinkKept (t.testPower b) :=
  .ite (h.faultBay b .power) h

theorem State.LinkKept.enterPowering {s t : State} (h : s.LinkKept t) (b : BayNo) (o : Origin) :
    s.LinkKept (t.enterPowering b o) := by
  have entered : s.LinkKept (t.setBay b (((t.bay b).accept .powerOn o).ramp (t.bayConfig b))) := h.same
  simp only [State.enterPowering]
  exact .ite (entered.faultBay b .power) (.ite entered.same entered)

theorem State.LinkKept.powerOff {s t : State} (h : s.LinkKept t) (b : BayNo) (o : Origin) : s.LinkKept (t.powerOff b o) :=
  (h.takeWork b .bayOff).same (u := State.actBay _ b _)

theorem State.LinkKept.latchOpened {s t : State} (h : s.LinkKept t) (b : BayNo) : s.LinkKept (t.latchOpened b) := by
  unfold State.latchOpened
  split
  · exact (h.takeWork b .bayOff).same
  · exact (h.takeWork b .latchOpen).same

theorem State.LinkKept.holdOffExpired {s t : State} (h : s.LinkKept t) (b : BayNo) (x : HoldOffTarget) :
    s.LinkKept (t.holdOffExpired b x) := by
  have ended : s.LinkKept (t.setBay b (t.bay b).endHoldOff) := h.same
  cases x with
  | off => exact .ite (ended.powerOff b .button) ended
  | on => exact .ite (ended.enterPowering b .button) ended

/-! ## Reports and the bus -/

theorem State.LinkKept.account {s t : State} (h : s.LinkKept t) (b : BayNo) (x : Ending) : s.LinkKept (t.account b x) := by
  simp only [State.account]
  exact .ite (State.LinkKept.busFault h.same b) h.same

theorem State.LinkKept.takeReadEnding {s t : State} (h : s.LinkKept t) (b : BayNo) (x : ReadEnding) :
    s.LinkKept (t.takeReadEnding b x) := by
  have counted : s.LinkKept (t.countTimeout b x.ending) := h.same
  have gone : s.LinkKept ((t.countTimeout b x.ending).setRead b .noRead) := counted.same
  refine .ite ?_ counted
  unfold State.takeOutcome
  split
  · exact gone.same
  · exact gone.faultBay b .identity

theorem State.LinkKept.takeJobEnding {s t : State} (h : s.LinkKept t) (j : SlotNo) (x : Ending) (o n : Nat) :
    s.LinkKept (t.takeJobEnding j x o n) := by
  have counted : s.LinkKept (t.countTimeout (t.slot j).bay x) := h.same
  have drawn (m : Nat) : s.LinkKept ((t.countTimeout (t.slot j).bay x).setDraws m) := counted.same
  refine .ite ?_ h
  dsimp only
  split
  · exact counted.trans (State.endJob_linkKept _ j _ o n)
  · exact (drawn _).trans (State.endJob_linkKept _ j _ o n)

theorem State.grant_linkSame (s : State) : s.LinkSame s.grant := by
  unfold State.grant
  split
  · split
    · simp only [State.grantRead]
      exact .frame
    · simp only [State.grantJob]
      exact .frame
    · exact .refl s
  · exact .refl s

theorem State.takeOffer_linkSame (s : State) : s.LinkSame s.takeOffer := by
  have stored : s.LinkSame s.storeOffer := by
    unfold State.storeOffer
    split
    · exact .frame
    · exact .refl s
  unfold State.takeOffer
  split
  · exact stored.trans .frame
  · exact .refl s

/-! ## What a request does at its owning block (R154 step 7) -/

theorem State.forBay_linkKept (s : State) (byte : Byte) (serve : BayNo → Served)
    (hserve : ∀ b, s.LinkKept (serve b).1) : s.LinkKept (s.forBay byte serve).1 := by
  unfold State.forBay
  split
  · exact hserve _
  · exact .refl s

theorem State.servePowerOn_linkKept (s : State) (b : BayNo) : s.LinkKept (s.servePowerOn b).1 := by
  have h := State.LinkKept.refl s
  unfold State.servePowerOn
  split
  case h_2 =>
    split
    · exact h.enterPowering b .link
    · exact h
  all_goals exact h

theorem State.servePowerOff_linkKept (s : State) (b : BayNo) : s.LinkKept (s.servePowerOff b).1 := by
  have h := State.LinkKept.refl s
  have superseded : s.LinkKept (s.supersede b) := (h.takeWork b .bayOff).same (u := State.actBay _ b _)
  have adopted : s.LinkKept (s.adopt b).1 := by
    unfold State.adopt
    split
    · exact h
    · exact h.same (u := s.setBay b _)
  unfold State.servePowerOff
  split
  case h_4 | h_5 | h_6 => exact superseded
  case h_7 =>
    dsimp only
    exact h.powerOff b .link
  case h_8 | h_9 => exact adopted
  all_goals exact h

theorem State.serveResetModule_linkKept (s : State) (b : BayNo) : s.LinkKept (s.serveResetModule b).1 := by
  have h := State.LinkKept.refl s
  unfold State.serveResetModule
  split
  case h_4 => exact (h.takeWork b .bayReset).same (u := State.setBay _ b _)
  all_goals exact h

theorem State.serveClearFault_linkKept (s : State) (b : BayNo) : s.LinkKept (s.serveClearFault b).1 := by
  have h := State.LinkKept.refl s
  unfold State.serveClearFault
  split
  case h_2 =>
    split
    · exact h
    · exact h.same (u := s.setBay b _)
  all_goals exact h

theorem State.serveIndicate_linkKept (s : State) (p : List Byte) : s.LinkKept (s.serveIndicate p).1 := by
  have h := State.LinkKept.refl s
  refine s.forBay_linkKept _ _ fun b => ?_
  split
  · split
    · exact h.same (u := s.setBay b _)
    · exact h
  · exact h

theorem State.serveSubmit_linkKept (s : State) (p : List Byte) : s.LinkKept (s.serveSubmit p).1 := by
  have h := State.LinkKept.refl s
  unfold State.serveSubmit
  split
  · exact h
  · split
    · exact h.same (.frame rfl rfl rfl rfl)
    · exact h
    · exact h

theorem State.serveCancel_linkKept (s : State) (p : List Byte) : s.LinkKept (s.serveCancel p).1 := by
  have h := State.LinkKept.refl s
  unfold State.serveCancel
  split
  · unfold State.cancelSlot
    split
    · exact s.endJob_linkKept _ _ _ _
    · exact .ite h.same h
    all_goals exact h
  · exact h

theorem State.serveJobStatus_linkKept (s : State) (p : List Byte) : s.LinkKept (s.serveJobStatus p).1 := by
  unfold State.serveJobStatus
  split <;> exact .refl s

theorem State.serveClearEvents_linkKept (s : State) (p : List Byte) : s.LinkKept (s.serveClearEvents p).1 := by
  unfold State.serveClearEvents
  split
  · split
    · exact .refl s
    · exact s.clearEvents_linkKept _ _
  · exact .refl s

/-- A payload that spells a record spells one in range (R178). -/
theorem bayConfigInRange_of_spelled {p : List Byte} {c : BayConfig} (h : bayConfigOf? p = some c) :
    bayConfigInRange c := by
  unfold bayConfigOf? at h
  split at h
  · split at h
    · next hrange => exact Option.some.inj h ▸ hrange
    · cases h
  · cases h

/-- A payload that spells a link configuration spells one in range (R179). -/
theorem linkConfigInRange_of_spelled {p : List Byte} {c : LinkConfig} (h : linkConfigOf? p = some c) :
    linkConfigInRange c := by
  simp only [linkConfigOf?] at h
  split at h
  · next hrange => exact Option.some.inj h ▸ hrange
  · cases h

theorem State.serveSetBayConfig_linkKept (s : State) (p : List Byte) : s.LinkKept (s.serveSetBayConfig p).1 := by
  unfold State.serveSetBayConfig
  split
  · next bs c _ hc =>
    exact .foldl (fun t b => t.storeBayConfig_linkKept b c (bayConfigInRange_of_spelled hc)) bs s
  · exact .refl s

theorem State.serveSetLinkConfig_linkKept (s : State) (p : List Byte) : s.LinkKept (s.serveSetLinkConfig p).1 := by
  unfold State.serveSetLinkConfig
  split
  · next c hc =>
    exact State.LinkSame.kept ⟨rfl, rfl, rfl, fun ⟨hbays, _⟩ => ⟨hbays, linkConfigInRange_of_spelled hc⟩⟩
  · exact .refl s

theorem State.serveGetCounters_linkKept (s : State) (p : List Byte) : s.LinkKept (s.serveGetCounters p).1 := by
  have h := State.LinkKept.refl s
  have cleared (n : SourceNo) : s.LinkKept (s.clearCounters n) := by
    unfold State.clearCounters
    split <;> exact h.same
  unfold State.serveGetCounters
  split
  · split
    · exact h
    · split
      · exact cleared _
      · exact h
  · exact h

end Sys2Proof.Machine
end

section
/-! PROOFS. The moves of the link, and that every command and every step leaves the link or is a chain of them with the
start of a frame on an idle LINK_TX at its end (95, what each step holds; assumption log 12). -/

namespace Sys2Proof.Machine

open Sys2Proof.Claims

/-! ## The moves -/

/-- One move of the link, with what the model tests before it. -/
inductive LinkMove (s : State) : State → Prop
  | kept {t : State} (h : s.LinkKept t) : LinkMove s t
  | unstalls : LinkMove s s.unstall
  | replies (r : Frame) (restart : Bool) (room : s.handler.replies.length < 8) : LinkMove s (s.queueReply r restart)
  | answers (f r : Frame) (room : s.handler.replies.length < 8) (up : s.handler.link ≠ .down)
    (fresh : s.cached? f.seq = none) : LinkMove s (s.answer f r)
  | acks (i : Nat) (up : s.handler.link = .up) : LinkMove s (s.removeUpTo i)
  | expires (running : s.transmitter.ackTimer.isSome) : LinkMove s s.ackExpired
  | sessionEnds (kept : List QueuedReply) (few : kept.length ≤ 1) : LinkMove s (s.endSession kept)
  | sessionStarts (nonce : Word16) (down : s.handler.link = .down) : LinkMove s (s.startSession nonce)
  | frees : LinkMove s (s.setPort { s.port with sending := none })
  | noticeEnds (idle : s.port.sending = none) : LinkMove s s.noticeEnded

/-- A chain of moves of the link. -/
def LinkMoves (s t : State) : Prop := Relation.ReflTransGen LinkMove s t

theorem LinkMoves.refl (s : State) : LinkMoves s s := Relation.ReflTransGen.refl

theorem LinkMoves.move {s t u : State} (h : LinkMoves s t) (m : LinkMove t u) : LinkMoves s u :=
  Relation.ReflTransGen.tail h m

theorem LinkMoves.trans {s t u : State} (h : LinkMoves s t) (h' : LinkMoves t u) : LinkMoves s u :=
  Relation.ReflTransGen.trans h h'

theorem LinkMoves.kept {s t u : State} (h : LinkMoves s t) (hk : t.LinkKept u) : LinkMoves s u := h.move (.kept hk)

theorem LinkMoves.same {s t u : State} (h : LinkMoves s t) (hs : t.LinkSame u := by exact .frame) : LinkMoves s u :=
  h.kept hs.kept

theorem LinkMoves.ite {s t u : State} {p : Prop} [Decidable p] (ht : p → LinkMoves s t) (hu : ¬p → LinkMoves s u) :
    LinkMoves s (if p then t else u) := by
  split
  · next hp => exact ht hp
  · next hp => exact hu hp

/-- What a chain of moves keeps is what each move keeps. -/
theorem LinkMoves.keeps {P : State → Prop} (hP : ∀ s t, LinkMove s t → P s → P t) {s t : State} (h : LinkMoves s t)
    (hs : P s) : P t := by
  induction h with
  | refl => exact hs
  | tail _ m ih => exact hP _ _ m ih

/-- What a step does to the link: nothing, 10 µs pass, a hardware reset, or a chain of moves with the start of a frame on an
idle LINK_TX at its end (R1, R164, R170). -/
inductive LinkStep (s : State) : State → Prop
  | same {t : State} (h : s.LinkSame t) : LinkStep s t
  | ticks : LinkStep s s.tick
  | resets (u : State) (cause : ResetCause) (straps : BitVec 2) : LinkStep s (u.hardwareReset cause straps)
  | fills {t : State} (h : LinkMoves s t) : LinkStep s t.fillLine

theorem LinkStep.refl (s : State) : LinkStep s s := .same (.refl s)

theorem LinkStep.kept {s t : State} (h : s.LinkKept t) : LinkStep s t.fillLine := .fills ((LinkMoves.refl s).kept h)

theorem LinkStep.ite {s t u : State} {p : Prop} [Decidable p] (ht : p → LinkStep s t) (hu : ¬p → LinkStep s u) :
    LinkStep s (if p then t else u) := by
  split
  · next hp => exact ht hp
  · next hp => exact hu hp

theorem LinkStep.takeReport {s : State} {α : Type} {sel : Report → Option α} {act : α → State → State}
    (hact : ∀ (a : α) (t : State), s.LinkSame t → LinkStep s (act a t)) : LinkStep s (s.takeReport sel act) := by
  unfold State.takeReport
  split
  · exact .refl s
  · exact hact _ _ .frame

/-! ## How a frame is taken and settled (R154) -/

theorem State.takeFrame_link (s : State) (f : Frame) : (s.takeFrame f).handler.link ≠ .stalled := by
  unfold State.takeFrame State.unstall
  split
  · simp
  · next h => exact h

theorem State.takeFrame_linkMoves (s : State) (f : Frame) : LinkMoves s (s.takeFrame f) := by
  have taken : s.LinkSame (s.popArrival f) := .frame (hp := by rw [State.popArrival_eq]; rfl)
  exact ((LinkMoves.refl s).same taken).move .unstalls

/-- A frame that is settled joins one reply to a queue that has room, or none (R154 steps 3, 5 and 6). -/
theorem State.settled?_linkMoves {s t : State} {f : Frame} (h : s.settled? f = some t) : LinkMoves s t := by
  unfold State.settled? at h
  split at h
  · cases h
    exact (LinkMoves.refl s).same (.frame rfl rfl rfl rfl)
  · next hfull =>
    have room : s.handler.replies.length < 8 := by simpa [State.repliesFull] using hfull
    split at h
    · cases h
      exact (LinkMoves.refl s).move (.replies _ _ room)
    · obtain ⟨r, -, rfl⟩ := Option.map_eq_some_iff.mp h
      have counted : LinkMoves s (s.setDeviceCounters s.counters.device.duplicate) := (LinkMoves.refl s).same
      exact counted.move (.replies r false room)

/-- What stands where no step before step 7 of R154 settles the frame. -/
structure State.Unsettled (s : State) (f : Frame) : Prop where
  room : s.handler.replies.length < 8
  up : s.handler.link ≠ .down
  fresh : s.cached? f.seq = none

theorem State.unsettled {s : State} {f : Frame} (h : s.settled? f = none) : s.Unsettled f := by
  have up := s.link_of_unsettled f h
  unfold State.settled? at h
  split at h
  · cases h
  · next hfull =>
    have fresh : s.cached? f.seq = none := by simpa [up] using h
    exact ⟨by simpa [State.repliesFull] using hfull, up, fresh⟩

/-- An answer after work that keeps the link (R154 step 7). -/
theorem State.Unsettled.answers {s t : State} {f : Frame} (h : s.Unsettled f) (hk : s.LinkKept t) (r : Frame) :
    LinkMoves s (t.answer f r) := by
  obtain ⟨room, up, fresh⟩ := h
  have seen : t.cached? f.seq = s.cached? f.seq := by simp only [State.cached?, hk.handler]
  exact ((LinkMoves.refl s).kept hk).move
    (.answers f r (hk.handler ▸ room) (hk.handler ▸ up) (seen.trans fresh))

/-- A request moves the link by its settlement or by its answer, since its service leaves the link as it is. -/
theorem LinkStep.request {s : State} {f : Frame} {good : Bool} {serve : State → Served}
    (hserve : ∀ t : State, t.LinkKept (serve t).1) : LinkStep s (s.request f good serve).fillLine := by
  refine .fills ((s.takeFrame_linkMoves f).trans ?_)
  simp only [State.request]
  split
  · next h => exact State.settled?_linkMoves h
  · next h =>
    have unsettled := State.unsettled h
    exact .ite (fun _ => unsettled.answers (hserve _) _) fun _ => unsettled.answers (.refl _) _

/-- A CLOSE or RESTART ends the session and keeps its one reply (R157, R160, R161). -/
theorem LinkStep.requestEnd (s : State) (f : Frame) (restart : Bool) : LinkStep s (s.requestEnd f restart).fillLine := by
  refine .fills ((s.takeFrame_linkMoves f).trans ?_)
  simp only [State.requestEnd]
  split
  · next h => exact State.settled?_linkMoves h
  · next h =>
    exact .ite (fun _ => (LinkMoves.refl _).move (.sessionEnds _ (by simp))) fun _ =>
      (State.unsettled h).answers (.refl _) _

theorem LinkStep.requestUnknown (s : State) (f : Frame) : LinkStep s (s.requestUnknown f).fillLine := by
  refine .fills ((s.takeFrame_linkMoves f).trans ?_)
  simp only [State.requestUnknown]
  split
  · next h => exact State.settled?_linkMoves h
  · next h =>
    have unsettled := State.unsettled h
    exact .ite (fun _ => unsettled.answers (.refl _) _) fun _ => unsettled.answers (.refl _) _

theorem State.endSession_handler (s : State) (kept : List QueuedReply) :
    (s.endSession kept).handler =
      { s.handler with link := .down, nonce := none, cache := [], replies := kept } :=
  (congrArg State.handler (s.endSession_spec kept).1 :)

theorem State.startSession_handler (s : State) (nonce : Word16) :
    (s.startSession nonce).handler =
      { s.handler with
        link := .up, session := if s.handler.session = 0xFFFF then 1 else s.handler.session + 1,
        nonce := some nonce, cache := [] } :=
  (congrArg State.handler (s.startSession_spec nonce).1 :)

/-- An OPEN starts a session with the link DOWN, after the end of the session that stood (R158, R159). -/
theorem LinkStep.requestOpen (s : State) (f : Frame) : LinkStep s (s.requestOpen f).fillLine := by
  refine .fills ((s.takeFrame_linkMoves f).trans ?_)
  simp only [State.requestOpen]
  generalize s.takeFrame f = t
  have h := LinkMoves.refl t
  refine .ite (fun _ => h.same (.frame rfl rfl rfl rfl)) fun hfull => ?_
  have room : t.handler.replies.length < 8 := by simpa [State.repliesFull] using hfull
  have started {u : State} (hu : LinkMoves t u) (down : u.handler.link = .down) (hr : u.handler.replies.length < 8)
      (nonce : Word16) : LinkMoves t ((u.startSession nonce).answerOpen f) := by
    refine (hu.move (.sessionStarts nonce down)).move (.replies _ _ ?_)
    rwa [State.startSession_handler]
  refine .ite (fun _ => .ite (fun down => started h down room _) fun _ => .ite (fun _ => ?_) fun _ => ?_) fun _ =>
    .ite (fun _ => h.move (.replies _ _ room)) fun _ => h.move (.replies _ _ room)
  · exact (h.same (u := t.setDeviceCounters _)).move (.replies _ _ room)
  · exact started (h.move (.sessionEnds [] (by simp))) (by rw [State.endSession_handler])
      (by rw [State.endSession_handler]; simp) _

/-- An ACK is taken with the link UP only (R154 step 2, R171, R172). -/
theorem LinkStep.requestAck (s : State) (f : Frame) : LinkStep s (s.requestAck f).fillLine := by
  refine .fills ((s.takeFrame_linkMoves f).trans ?_)
  simp only [State.requestAck]
  have awake := s.takeFrame_link f
  generalize s.takeFrame f = t at awake
  have h := LinkMoves.refl t
  refine .ite (fun _ => h) fun hdown => .ite (fun _ => ?_) fun _ => h.same (.frame rfl rfl rfl rfl)
  have up : t.handler.link = .up := by
    cases hl : t.handler.link with
    | up => rfl
    | down => exact absurd hl hdown
    | stalled => exact absurd hl awake
  unfold State.takeAck
  split
  · exact h.move (.acks _ up)
  · exact h.same (.frame rfl rfl rfl rfl)

/-! ## The frame boundary (R161, R164, R173) -/

/-- The boundary after a frame finds LINK_TX idle. -/
theorem LinkStep.boundary {s t : State} (h : LinkMoves s t) (idle : t.port.sending = none) : LinkStep s t.boundary :=
  t.fillLine_idle idle ▸ .fills h

theorem State.noticeEnded_port (s : State) : s.noticeEnded.port = s.port := by
  unfold State.noticeEnded
  split <;> rfl

theorem LinkStep.frameSent (s : State) : ∃ t, exec .frameSent s = .next t ∧ LinkStep s t := by
  cases hsend : s.port.sending with
  | none => exact ⟨_, exec_frameSent_idle s hsend, .boundary (.refl s) hsend⟩
  | some f =>
    have freed : LinkMoves s (s.setPort { s.port with sending := none }) := (LinkMoves.refl s).move .frees
    refine ⟨_, exec_frameSent_busy s f hsend, ?_⟩
    simp only [State.frameEnded]
    refine .ite (fun _ => .resets _ _ _) fun _ => .ite (fun _ => ?_) fun _ => .boundary freed rfl
    exact .boundary (freed.move (.noticeEnds rfl)) (by rw [State.noticeEnded_port]; rfl)

/-! ## The whole machine -/

/-- Every command answers a next state, and does to the link what a step can do. -/
theorem exec_linkStep (i : Instr) (s : State) : ∃ t, exec i s = .next t ∧ LinkStep s t := by
  have h := State.LinkKept.refl s
  have idle := LinkStep.refl s
  cases i with
  -- the sideband inputs and the timers of a bay
  | hardwareReset cause straps => exact ⟨_, rfl, .resets s cause straps⟩
  | sidebandLineEdge b line x => exact ⟨_, rfl, .same .frame⟩
  | presenceAssert b => exact ⟨_, rfl, .ite (fun _ => .same .frame) fun _ => idle⟩
  | presenceLoss b => exact ⟨_, rfl, .ite (fun _ => .kept (h.takeWork b .bayGone).same) fun _ => idle⟩
  | latchChange b =>
    exact ⟨_, rfl, .ite (fun _ => .ite (fun _ => .kept (h.latchOpened b)) fun _ => .same .frame) fun _ => idle⟩
  | attentionPress b => exact ⟨_, rfl, .ite (fun _ => .same .frame) fun _ => idle⟩
  | attentionRelease b => exact ⟨_, rfl, .ite (fun _ => .same .frame) fun _ => idle⟩
  | pgoodRise b => exact ⟨_, rfl, .ite (fun _ => idle) fun _ => .same .frame⟩
  | pgoodFall b => exact ⟨_, rfl, .ite (fun _ => .kept (.ite h.same (State.LinkKept.testPower h.same b))) fun _ => idle⟩
  | pfaultAssert b => exact ⟨_, rfl, .ite (fun _ => idle) fun _ => .kept (State.LinkKept.testPower h.same b)⟩
  | pfaultDeassert b => exact ⟨_, rfl, .same .frame⟩
  | srqChange b x => exact ⟨_, rfl, .same .frame⟩
  | powerUpExpiry b => exact ⟨_, rfl, .ite (fun _ => .kept (h.faultBay b _)) fun _ => idle⟩
  | settleExpiryPowering b => exact ⟨_, rfl, .ite (fun _ => .same .frame) fun _ => idle⟩
  | resetPulseExpiry b => exact ⟨_, rfl, .ite (fun _ => .same .frame) fun _ => idle⟩
  | settleExpiryResetting b => exact ⟨_, rfl, .ite (fun _ => .same .frame) fun _ => idle⟩
  | dischargeExpiry b => exact ⟨_, rfl, .ite (fun _ => .kept (h.faultBay b _)) fun _ => idle⟩
  | holdOffExpiry b =>
    refine ⟨_, rfl, ?_⟩
    split
    · exact .kept (h.holdOffExpired b _)
    · exact idle
  | blinkToggle => exact ⟨_, rfl, .same .frame⟩
  -- requests that a bay serves
  | powerOn seq bay => exact ⟨_, rfl, .request fun t => t.forBay_linkKept _ _ t.servePowerOn_linkKept⟩
  | powerOff seq bay => exact ⟨_, rfl, .request fun t => t.forBay_linkKept _ _ t.servePowerOff_linkKept⟩
  | resetModule seq bay => exact ⟨_, rfl, .request fun t => t.forBay_linkKept _ _ t.serveResetModule_linkKept⟩
  | clearFault seq bay => exact ⟨_, rfl, .request fun t => t.forBay_linkKept _ _ t.serveClearFault_linkKept⟩
  | indicate seq p => exact ⟨_, rfl, .request fun t => t.serveIndicate_linkKept p⟩
  | bayStatus seq p => exact ⟨_, rfl, .request fun t => t.forBay_linkKept _ _ fun _ => .refl t⟩
  | bayIdentity seq p => exact ⟨_, rfl, .request fun t => t.forBay_linkKept _ _ fun _ => .refl t⟩
  -- the Bus Arbiter and the Module Bus Engine
  | grant => exact ⟨_, rfl, .same s.grant_linkSame⟩
  | mbAckRise lines =>
    exact ⟨_, rfl, .ite (fun _ => idle) fun _ => .same (State.LinkSame.trans .frame (State.takeOffer_linkSame _))⟩
  | mbAckFall => exact ⟨_, rfl, .ite (fun _ => .same .frame) fun _ => idle⟩
  | mbRevackRise lines =>
    exact ⟨_, rfl, .ite (fun _ => idle) fun _ => .same (State.LinkSame.trans .frame (State.takeOffer_linkSame _))⟩
  | mbRevackFall => exact ⟨_, rfl, .ite (fun _ => .same .frame) fun _ => idle⟩
  | byteTimerExpiry => exact ⟨_, rfl, .ite (fun _ => .same .frame) fun _ => idle⟩
  | turnaroundTimerExpiry => exact ⟨_, rfl, .ite (fun _ => .same .frame) fun _ => idle⟩
  | heldTimerExpiry => exact ⟨_, rfl, .ite (fun _ => .same .frame) fun _ => idle⟩
  | abortRequest w =>
    have taken : s.LinkSame (s.takeReport (Report.abortOf? w) fun _ t => t) := by
      unfold State.takeReport
      split
      · exact .refl s
      · exact .frame
    exact ⟨_, rfl, .same (taken.trans .frame)⟩
  | abandonRequest w => exact ⟨_, rfl, .same .frame⟩
  -- reports
  | releaseReport b => exact ⟨_, rfl, .takeReport fun _ _ ht => .same (ht.trans .frame)⟩
  | liveCountReport b => exact ⟨_, rfl, .takeReport fun _ _ ht => .same (ht.trans .frame)⟩
  | timeoutAccountingReport b => exact ⟨_, rfl, .takeReport fun x _ ht => .kept (ht.kept.account b x)⟩
  | busFaultReport b => exact ⟨_, rfl, .takeReport fun _ _ ht => .kept (ht.kept.busFault b)⟩
  | identityEndingReport b => exact ⟨_, rfl, .takeReport fun x _ ht => .kept (ht.kept.takeReadEnding b x)⟩
  | jobEndingReport j => exact ⟨_, rfl, .takeReport fun _ _ ht => .kept (ht.kept.takeJobEnding j _ _ _)⟩
  | eventRaise n => exact ⟨_, rfl, .takeReport fun bits t ht => .kept (ht.kept.trans (t.recordRaise_linkKept n bits))⟩
  -- jobs, events, configuration and counters
  | deadlineExpiry j => exact ⟨_, rfl, .ite (fun _ => .kept (s.endJob_linkKept j _ 0 0)) fun _ => idle⟩
  | submit seq p => exact ⟨_, rfl, .request fun t => t.serveSubmit_linkKept p⟩
  | cancel seq p => exact ⟨_, rfl, .request fun t => t.serveCancel_linkKept p⟩
  | jobStatus seq p => exact ⟨_, rfl, .request fun t => t.serveJobStatus_linkKept p⟩
  | clearEvents seq p => exact ⟨_, rfl, .request fun t => t.serveClearEvents_linkKept p⟩
  | setBayConfig seq p => exact ⟨_, rfl, .request fun t => t.serveSetBayConfig_linkKept p⟩
  | getBayConfig seq p => exact ⟨_, rfl, .request fun t => t.forBay_linkKept _ _ fun _ => .refl t⟩
  | setLinkConfig seq p => exact ⟨_, rfl, .request fun t => t.serveSetLinkConfig_linkKept p⟩
  | getLinkConfig seq p => exact ⟨_, rfl, .request .refl⟩
  | getCounters seq p => exact ⟨_, rfl, .request fun t => t.serveGetCounters_linkKept p⟩
  -- the Carrier Link
  | linkRxByte x => exact ⟨_, rfl, .same (.frame rfl rfl rfl rfl)⟩
  | gapExpiry => exact ⟨_, rfl, .ite (fun _ => .same (.frame rfl rfl rfl rfl)) fun _ => idle⟩
  | openSession seq p => exact ⟨_, rfl, .requestOpen s _⟩
  | closeSession seq p => exact ⟨_, rfl, .requestEnd s _ _⟩
  | restart seq p => exact ⟨_, rfl, .requestEnd s _ _⟩
  | ping seq p => exact ⟨_, rfl, .request .refl⟩
  | ack seq p => exact ⟨_, rfl, .requestAck s _⟩
  | unknownRequest kind seq p => exact ⟨_, rfl, .requestUnknown s _⟩
  | frameSent => exact LinkStep.frameSent s
  | ackTimerExpiry =>
    exact ⟨_, rfl, .ite (fun running => .fills ((LinkMoves.refl s).move (.expires running))) fun _ => idle⟩

/-- With no command waiting a command joins the queue, or time passes. -/
theorem LinkStep.idle (s : State) : LinkStep s s.idle := by
  have queued (l : List Instr) : LinkStep s { s with pending := l } := .same (.frame rfl rfl rfl rfl)
  unfold State.idle
  split
  · exact queued _
  · refine .ite (fun _ => queued _) fun _ => .ite (fun _ => queued _) fun _ => ?_
    split
    · exact queued _
    · exact .ticks

/-- A law of the link that the queue of commands is no part of, and that each kind of step keeps, is kept by `step`. -/
theorem step_keeps_link {P : State → Prop} (hsame : ∀ s t, s.LinkSame t → P s → P t)
    (hP : ∀ s t, LinkStep s t → P s → P t) {s t : State} (hs : P s) (hstep : step s = .next t) : P t := by
  unfold step at hstep
  split at hstep
  · next c rest _ =>
    obtain ⟨u, hu, hlink⟩ := exec_linkStep c { s with pending := rest }
    obtain rfl : u = t := Host.Outcome.next.inj (hu.symm.trans hstep)
    exact hP _ _ hlink (hsame s _ (.frame rfl rfl rfl rfl) hs)
  · obtain rfl : s.idle = t := Host.Outcome.next.inj hstep
    exact hP _ _ (.idle s) hs

end Sys2Proof.Machine
end

section
/-! PROOFS. The laws of the link and the ranges of the settings through each move of the link, and so through every step
(R152, R156, R157, R164, R169, R170, R173, R175, R177 to R179). -/

namespace Sys2Proof.Machine

open Sys2Proof.Claims

/-! ## The numbers of the unacknowledged notices (R169) -/

/-- The first n numbers left out, those of the entries after them remain. -/
theorem numbersBefore_drop (next : Byte) (n k : Nat) :
    (numbersBefore next n).drop k = numbersBefore next (n - k) := by
  induction n generalizing k with
  | zero => simp [numbersBefore]
  | succ n ih =>
    cases k with
    | zero => rfl
    | succ k => rw [numbersBefore, List.drop_succ_cons, ih, Nat.succ_sub_succ]

/-- One number more at the end is the next number. -/
theorem numbersBefore_succ (next : Byte) (n : Nat) :
    numbersBefore (next + 1) (n + 1) = numbersBefore next n ++ [next] := by
  induction n with
  | zero => simp [numbersBefore, byteOf]
  | succ n ih =>
    have hnumber : next + 1 - byteOf (n + 1 + 1) = next - byteOf (n + 1) := by
      rw [byteOf, byteOf, BitVec.ofNat_add (x := n + 1) (y := 1)]
      grind
    rw [numbersBefore, ih, hnumber, numbersBefore, List.cons_append]

theorem map_number_clearFirstDue (l : List Unacked) : (clearFirstDue l).map Unacked.number = l.map Unacked.number := by
  induction l with
  | nil => rfl
  | cons u l ih => unfold clearFirstDue; split <;> simp [ih]

theorem map_number_markDue (l : List Unacked) : (l.map Unacked.markDue).map Unacked.number = l.map Unacked.number := by
  rw [List.map_map]; rfl

/-- The window depends on the numbers only: a change of the due marks keeps it. -/
theorem Transmitter.WindowLegal.renumbered {t u : Transmitter} (h : t.WindowLegal)
    (hn : u.unacked.map Unacked.number = t.unacked.map Unacked.number) (hx : u.next = t.next) : u.WindowLegal := by
  have hlen : u.unacked.length = t.unacked.length := by simpa using congrArg List.length hn
  obtain ⟨hfour, hnumbers⟩ := h
  exact ⟨hlen ▸ hfour, by rw [hn, hx, hlen, hnumbers]⟩

/-- The oldest entries leave (R171). -/
theorem Transmitter.WindowLegal.dropped {t u : Transmitter} (h : t.WindowLegal) (k : Nat)
    (hu : u.unacked = t.unacked.drop k) (hx : u.next = t.next) : u.WindowLegal := by
  obtain ⟨hfour, hnumbers⟩ := h
  refine ⟨by rw [hu, List.length_drop]; omega, ?_⟩
  rw [hu, hx, List.map_drop, hnumbers, numbersBefore_drop, List.length_drop]

/-- The next notice takes the next number (R169). -/
theorem Transmitter.WindowLegal.numbered {t u : Transmitter} (h : t.WindowLegal) (room : t.unacked.length < 4) (x : Notice)
    (hu : u.unacked = t.unacked ++ [⟨x, t.next, false⟩]) (hx : u.next = t.next + 1) : u.WindowLegal := by
  obtain ⟨-, hnumbers⟩ := h
  refine ⟨by rw [hu]; simp; omega, ?_⟩
  rw [hu, hx, List.map_append, hnumbers, List.length_append]
  exact (numbersBefore_succ _ _).symm

/-- With nothing unacknowledged the numbering may start anywhere (R158). -/
theorem Transmitter.windowLegal_of_empty {t : Transmitter} (h : t.unacked = []) : t.WindowLegal := by
  simp [Transmitter.WindowLegal, h, numbersBefore]

theorem Transmitter.anyDue_of_empty {t : Transmitter} (h : t.unacked = []) : t.anyDue = false := by
  simp [Transmitter.anyDue, h]

theorem LinkPort.sendingNotice_congr {p q : LinkPort} (h : q.sending = p.sending) : q.sendingNotice = p.sendingNotice := by
  unfold LinkPort.sendingNotice
  rw [h]

theorem LinkPort.sendingNotice_idle {p : LinkPort} (h : p.sending = none) : p.sendingNotice = false := by
  unfold LinkPort.sendingNotice
  rw [h]

/-! ## The cache and the reply queue (R156, R157) -/

/-- A new SEQ joins the cache, the oldest entry leaving where 8 are held (R156). -/
theorem cacheWith_legal {c : List CacheEntry} (e : CacheEntry) (hlen : c.length ≤ 8)
    (hseq : (c.map CacheEntry.seq).Nodup) (fresh : ∀ x ∈ c, x.seq ≠ e.seq) :
    (evict c ++ [e]).length ≤ 8 ∧ ((evict c ++ [e]).map CacheEntry.seq).Nodup := by
  have hsub : (evict c).Sublist c := by
    unfold evict
    split
    · exact List.tail_sublist c
    · exact List.Sublist.refl c
  have hroom : (evict c).length ≤ 7 := by
    unfold evict
    split
    · simp; omega
    · omega
  refine ⟨by simp; omega, ?_⟩
  rw [List.map_append, List.nodup_append]
  refine ⟨hseq.sublist (hsub.map _), by simp, ?_⟩
  simp only [List.map_cons, List.map_nil, List.mem_singleton, List.mem_map]
  rintro _ ⟨x, hx, rfl⟩ _ rfl
  exact fresh x (hsub.subset hx)

theorem State.fresh_of_cached? {s : State} {q : Byte} (h : s.cached? q = none) : ∀ x ∈ s.handler.cache, x.seq ≠ q := by
  simpa [State.cached?] using h

/-- A change of the reply queue alone. -/
theorem Handler.Legal.withReplies {h : Handler} (hl : h.Legal) (l : List QueuedReply) (hlen : l.length ≤ 8) :
    Handler.Legal { h with replies := l } := by
  obtain ⟨hcache, hseq, -, hdown, hnonce⟩ := hl
  exact ⟨hcache, hseq, hlen, hdown, hnonce⟩

/-- The link leaves UP or STALLED for the other of them. -/
theorem Handler.Legal.withLink {h : Handler} (hl : h.Legal) (hup : h.link ≠ .down) (x : LinkState) (hx : x ≠ .down) :
    Handler.Legal { h with link := x } := by
  obtain ⟨hcache, hseq, hreplies, -, hnonce⟩ := hl
  exact ⟨hcache, hseq, hreplies, fun hd => absurd hd hx, fun hn => absurd (hnonce hn) hup⟩

theorem Handler.Legal.answered {h : Handler} (hl : h.Legal) (hup : h.link ≠ .down) (e : CacheEntry)
    (fresh : ∀ x ∈ h.cache, x.seq ≠ e.seq) : Handler.Legal { h with cache := evict h.cache ++ [e] } := by
  obtain ⟨hcache, hseq, hreplies, -, hnonce⟩ := hl
  obtain ⟨hcache', hseq'⟩ := cacheWith_legal e hcache hseq fresh
  exact ⟨hcache', hseq', hreplies, fun hd => absurd hd hup, hnonce⟩

/-! ## The delivery of notices through one move (R168, R169, R173 to R177) -/

/-- The laws of delivery speak of the link state, the window, the ack timer, the due marks and the frame on LINK_TX. -/
theorem State.DeliveryLegal.congr {s t : State} (h : s.DeliveryLegal) (hl : t.handler.link = s.handler.link)
    (hu : t.transmitter.unacked = s.transmitter.unacked) (hx : t.transmitter.next = s.transmitter.next)
    (ha : t.transmitter.ackTimer.isSome → s.transmitter.ackTimer.isSome)
    (hp : s.port.sendingNotice = false → t.port.sendingNotice = false) : t.DeliveryLegal := by
  obtain ⟨hwindow, htimer, hstalled, hdown⟩ := h
  have hdue : t.transmitter.anyDue = s.transmitter.anyDue := by simp only [Transmitter.anyDue, hu]
  refine ⟨hwindow.renumbered (by rw [hu]) hx, fun ht => ?_, by rwa [hl, hdue], by rwa [hl, hu]⟩
  obtain ⟨up, left, none_due, silent⟩ := htimer (ha ht)
  exact ⟨hl ▸ up, hu ▸ left, hdue ▸ none_due, hp silent⟩

/-- With the link UP and the ack timer stopped only the window is left to keep. -/
theorem State.deliveryLegal_of_stopped {t : State} (hl : t.handler.link = .up) (ha : t.transmitter.ackTimer = none)
    (hw : t.transmitter.WindowLegal) : t.DeliveryLegal :=
  ⟨hw, by simp [ha], by simp [hl], by simp [hl]⟩

/-- With nothing unacknowledged and the ack timer stopped nothing is left to keep. -/
theorem State.deliveryLegal_of_empty {t : State} (hu : t.transmitter.unacked = []) (ha : t.transmitter.ackTimer = none) :
    t.DeliveryLegal :=
  ⟨Transmitter.windowLegal_of_empty hu, by simp [ha], fun _ => Transmitter.anyDue_of_empty hu, fun _ => hu⟩

theorem State.LinkLegal.kept {s t : State} (h : s.LinkLegal) (hk : s.LinkKept t) : t.LinkLegal := by
  obtain ⟨hhandler, hdelivery⟩ := h
  refine ⟨hk.handler ▸ hhandler, hdelivery.congr (by rw [hk.handler]) ?_ ?_ (fun ha => ?_) fun hp => ?_⟩
  · rw [hk.transmitter]
  · rw [hk.transmitter]
  · rwa [hk.transmitter] at ha
  · rwa [LinkPort.sendingNotice_congr hk.sending]

/-- The reply queue changes, and nothing of the delivery. -/
theorem State.LinkLegal.queues {s : State} (h : s.LinkLegal) (r : Frame) (restart : Bool)
    (room : s.handler.replies.length < 8) : (s.queueReply r restart).LinkLegal := by
  obtain ⟨hhandler, hdelivery⟩ := h
  exact ⟨hhandler.withReplies _ (by simp; omega), hdelivery.congr rfl rfl rfl id id⟩

theorem State.LinkLegal.answers {s : State} (h : s.LinkLegal) (f r : Frame) (room : s.handler.replies.length < 8)
    (up : s.handler.link ≠ .down) (fresh : s.cached? f.seq = none) : (s.answer f r).LinkLegal := by
  obtain ⟨hhandler, hdelivery⟩ := h
  have cached : (s.cacheReply f.seq r).LinkLegal :=
    ⟨hhandler.answered up ⟨f.seq, r⟩ (State.fresh_of_cached? fresh), hdelivery.congr rfl rfl rfl id id⟩
  exact cached.queues r false room

/-- STALLED ends with every entry due and the ack timer stopped (R176). -/
theorem State.LinkLegal.unstall {s : State} (h : s.LinkLegal) : s.unstall.LinkLegal := by
  unfold State.unstall
  split
  · next hs =>
    obtain ⟨hhandler, hwindow, htimer, -⟩ := h
    have stopped : s.transmitter.ackTimer = none := by
      by_contra hrun
      have up := (htimer (Option.isSome_iff_ne_none.mpr hrun)).1
      simp [hs] at up
    exact ⟨hhandler.withLink (by simp [hs]) .up (by simp),
      State.deliveryLegal_of_stopped rfl stopped (hwindow.renumbered (map_number_markDue _) rfl)⟩
  · exact h

/-- The removal of a notice reaches its owner, and the pending list at most (R171). -/
theorem State.noticeRemoved_linkKept (s : State) (x : Notice) : s.LinkKept (s.noticeRemoved x) := by
  have h := State.LinkKept.refl s
  cases x with
  | jobDone j => exact h.same (u := s.setSlot j _)
  | event n =>
    have unstaged (r : SourceRecord) : s.LinkKept (s.setSource n r) := h.same
    simp only [State.noticeRemoved, State.eventRemoved]
    exact .ite ((unstaged _).trans (State.noticeTest_linkKept _ n)) (unstaged _)

/-- After an ACK the ack timer runs with entries left, where it ran before or nothing held it back (R173). -/
theorem State.ackTimerAfterAck_isSome {s : State} (h : s.ackTimerAfterAck.isSome) :
    s.transmitter.unacked ≠ [] ∧
      (s.transmitter.ackTimer.isSome ∨ s.transmitter.anyDue = false ∧ s.port.sendingNotice = false) := by
  unfold State.ackTimerAfterAck at h
  split at h
  · cases h
  · next left =>
    split at h
    · exact ⟨left, .inl h⟩
    · next quiet => exact ⟨left, .inr (by simpa using quiet)⟩

/-- What an ACK does: the oldest entries leave, the retry count is 0, and the ack timer is set for what remains (R171,
R173). -/
theorem State.removeUpTo_link (s : State) (i : Nat) :
    ∃ t, State.LinkKept
        (s.setTransmitter { s.transmitter with unacked := s.transmitter.unacked.drop (i + 1), retries := 0 }) t ∧
      s.removeUpTo i = t.setTransmitter { t.transmitter with ackTimer := t.ackTimerAfterAck } :=
  ⟨_, .foldl (fun u x => u.noticeRemoved_linkKept x.notice) (s.transmitter.unacked.take (i + 1)) _, rfl⟩

theorem State.LinkLegal.acks {s : State} (h : s.LinkLegal) (i : Nat) (up : s.handler.link = .up) :
    (s.removeUpTo i).LinkLegal := by
  obtain ⟨hhandler, hwindow, htimer, -⟩ := h
  obtain ⟨t, hk, ht⟩ := s.removeUpTo_link i
  have hh : t.handler = s.handler := hk.handler
  have hu : t.transmitter.unacked = s.transmitter.unacked.drop (i + 1) := by rw [hk.transmitter]; rfl
  have hx : t.transmitter.next = s.transmitter.next := by rw [hk.transmitter]; rfl
  have ha : t.transmitter.ackTimer = s.transmitter.ackTimer := by rw [hk.transmitter]; rfl
  have hp : t.port.sendingNotice = s.port.sendingNotice := LinkPort.sendingNotice_congr hk.sending
  have hup : t.handler.link = .up := hh ▸ up
  have quiet (hrun : s.transmitter.ackTimer.isSome) : t.transmitter.anyDue = false ∧ t.port.sendingNotice = false := by
    obtain ⟨-, -, none_due, silent⟩ := htimer hrun
    refine ⟨?_, hp.trans silent⟩
    rw [Transmitter.anyDue, hu, List.any_eq_false]
    exact fun u hmem => List.any_eq_false.mp none_due u (List.mem_of_mem_drop hmem)
  rw [ht]
  refine ⟨(hh ▸ hhandler : t.handler.Legal), hwindow.dropped (i + 1) hu hx, fun hrun => ?_, ?_, ?_⟩
  · obtain ⟨left, hran⟩ := State.ackTimerAfterAck_isSome hrun
    obtain ⟨none_due, silent⟩ := hran.elim (fun hr => quiet (ha ▸ hr)) id
    exact ⟨hup, left, none_due, silent⟩
  · exact fun hs => by simp [hup] at hs
  · exact fun hd => by simp [hup] at hd

/-- The ack timer's expiry stops it: every entry is due, or the link is STALLED with none due (R174, R175). -/
theorem State.LinkLegal.ackExpired {s : State} (h : s.LinkLegal) (running : s.transmitter.ackTimer.isSome) :
    s.ackExpired.LinkLegal := by
  obtain ⟨hhandler, hwindow, htimer, -⟩ := h
  obtain ⟨up, -, none_due, -⟩ := htimer running
  simp only [State.ackExpired]
  split
  · exact ⟨hhandler, State.deliveryLegal_of_stopped up rfl (hwindow.renumbered (map_number_markDue _) rfl)⟩
  · have stalled := hhandler.withLink (by simp [up]) .stalled (by simp)
    exact ⟨stalled, hwindow.renumbered rfl rfl, nofun, fun _ => none_due, nofun⟩

/-- A session end leaves the cache and the unacknowledged list empty (R163, R177). -/
theorem State.LinkLegal.sessionEnds (s : State) (kept : List QueuedReply) (few : kept.length ≤ 1) :
    (s.endSession kept).LinkLegal := by
  have htr : (s.endSession kept).transmitter =
      { s.transmitter with pending := [], unacked := [], retries := 0, ackTimer := none } :=
    (congrArg State.transmitter (s.endSession_spec kept).1 :)
  refine ⟨?_, State.deliveryLegal_of_empty (by rw [htr]) (by rw [htr])⟩
  rw [State.endSession_handler]
  exact ⟨by simp, by simp, by simp; omega, fun _ => ⟨rfl, rfl⟩, fun _ => rfl⟩

theorem State.startSession_transmitter (s : State) (nonce : Word16) :
    (s.startSession nonce).transmitter =
      { s.transmitter with next := 0, pending := (s.startSession nonce).transmitter.pending } := by
  have htr := (congrArg State.transmitter (s.startSession_spec nonce).1 :)
  rw [htr]

/-- A session starts from DOWN, with no notice unacknowledged, and numbers from 0 (R158, R177). -/
theorem State.LinkLegal.sessionStarts {s : State} (h : s.LinkLegal) (nonce : Word16) (down : s.handler.link = .down) :
    (s.startSession nonce).LinkLegal := by
  obtain ⟨⟨-, -, hreplies, -, -⟩, -, htimer, -, hempty⟩ := h
  have stopped : s.transmitter.ackTimer = none := by
    by_contra hrun
    have up := (htimer (Option.isSome_iff_ne_none.mpr hrun)).1
    simp [down] at up
  refine ⟨?_, State.deliveryLegal_of_empty ?_ ?_⟩
  · rw [State.startSession_handler]
    exact ⟨by simp, by simp, hreplies, nofun, nofun⟩
  · rw [State.startSession_transmitter]; exact hempty down
  · rw [State.startSession_transmitter]; exact stopped

/-- The end of a notice starts the ack timer with LINK_TX idle, the link UP, entries waiting and none due (R173). -/
theorem State.LinkLegal.noticeEnded {s : State} (h : s.LinkLegal) (idle : s.port.sending = none) :
    s.noticeEnded.LinkLegal := by
  unfold State.noticeEnded
  split
  · next hstart =>
    obtain ⟨up, left, none_due⟩ := hstart
    obtain ⟨hhandler, hwindow, -⟩ := h
    exact ⟨hhandler, hwindow, fun _ => ⟨up, left, none_due, LinkPort.sendingNotice_idle idle⟩, fun _ => none_due,
      fun hd => by simp [up] at hd⟩
  · exact h

theorem LinkMove.linkLegal {s t : State} (m : LinkMove s t) (h : s.LinkLegal) : t.LinkLegal := by
  cases m with
  | kept hk => exact h.kept hk
  | unstalls => exact h.unstall
  | replies r restart room => exact h.queues r restart room
  | answers f r room up fresh => exact h.answers f r room up fresh
  | acks i up => exact h.acks i up
  | expires running => exact h.ackExpired running
  | sessionEnds kept few => exact .sessionEnds s kept few
  | sessionStarts nonce down => exact h.sessionStarts nonce down
  | frees =>
    obtain ⟨hhandler, hdelivery⟩ := h
    exact ⟨hhandler, hdelivery.congr rfl rfl rfl id fun _ => rfl⟩
  | noticeEnds idle => exact h.noticeEnded idle

/-! ## A frame that starts (R164, R169, R170) -/

/-- What a boundary can do: send a reply, send a due entry again, send the pending head for the first time, or nothing. -/
theorem State.boundary_cases (s : State) :
    (∃ q rest, s.handler.replies = q :: rest ∧ s.boundary = s.sendReply q rest) ∨
      (∃ u, s.handler.link = .up ∧ s.boundary = s.resendNotice u) ∨
      (∃ x rest, s.handler.link = .up ∧ s.transmitter.unacked.length < 4 ∧ s.boundary = s.sendNotice x rest) ∨
      s.boundary = s := by
  unfold State.boundary
  split
  · next q rest hq => exact .inl ⟨q, rest, hq, rfl⟩
  · split
    · next up =>
      unfold State.offerNotice
      split
      · next u _ => exact .inr (.inl ⟨u, up, rfl⟩)
      · split
        · next room =>
          split
          · next x rest _ => exact .inr (.inr (.inl ⟨x, rest, up, room, rfl⟩))
          · exact .inr (.inr (.inr rfl))
        · exact .inr (.inr (.inr rfl))
    · exact .inr (.inr (.inr rfl))

/-- A first send, as the link sees it (R169). -/
theorem State.sendNotice_link (s : State) (x : Notice) (rest : List Notice) :
    (s.sendNotice x rest).handler = s.handler ∧ (s.sendNotice x rest).config = s.config ∧
      (s.sendNotice x rest).transmitter =
        { s.transmitter with
          pending := rest, unacked := s.transmitter.unacked ++ [⟨x, s.transmitter.next, false⟩],
          next := s.transmitter.next + 1, ackTimer := none } := by
  cases x <;> exact ⟨rfl, rfl, rfl⟩

theorem State.LinkLegal.boundary {s : State} (h : s.LinkLegal) : s.boundary.LinkLegal := by
  obtain ⟨hhandler, hdelivery⟩ := id h
  obtain ⟨q, rest, hq, e⟩ | ⟨u, up, e⟩ | ⟨x, rest, up, room, e⟩ | e := s.boundary_cases
  · have hrest : rest.length ≤ 8 := by
      obtain ⟨-, -, hlen, -⟩ := hhandler
      rw [hq] at hlen
      exact Nat.le_of_succ_le hlen
    rw [e]
    exact ⟨hhandler.withReplies rest hrest, hdelivery.congr rfl rfl rfl id fun _ => rfl⟩
  · rw [e]
    refine ⟨hhandler, State.deliveryLegal_of_stopped up rfl ?_⟩
    exact hdelivery.1.renumbered (map_number_clearFirstDue _) rfl
  · obtain ⟨hh, -, ht⟩ := s.sendNotice_link x rest
    rw [e]
    refine ⟨hh ▸ hhandler, State.deliveryLegal_of_stopped (hh ▸ up) (by rw [ht]) ?_⟩
    exact hdelivery.1.numbered room x (by rw [ht]) (by rw [ht])
  · rwa [e]

/-! ## Time and reset -/

theorem LinkPort.sendingNotice_tick (p : LinkPort) : p.tick.sendingNotice = p.sendingNotice := by
  unfold LinkPort.sendingNotice LinkPort.tick
  cases p.sending <;> rfl

/-- 10 µs, as the link sees them. -/
theorem State.tick_link (s : State) :
    s.tick.handler = s.handler ∧ s.tick.config = s.config ∧ s.tick.port = s.port.tick ∧
      s.tick.transmitter = { s.transmitter with ackTimer := Machine.tick s.transmitter.ackTimer } := by
  simp only [State.tick, and_self]

theorem State.tick_ackTimer (s : State) : s.tick.transmitter.ackTimer.isSome = s.transmitter.ackTimer.isSome := by
  simp [s.tick_link, Machine.tick]

theorem State.LinkLegal.tick {s : State} (h : s.LinkLegal) : s.tick.LinkLegal := by
  obtain ⟨hhandler, hdelivery⟩ := h
  obtain ⟨hh, -, hp, ht⟩ := s.tick_link
  have running (ha : s.tick.transmitter.ackTimer.isSome) : s.transmitter.ackTimer.isSome := by rwa [← s.tick_ackTimer]
  refine ⟨by rwa [hh], hdelivery.congr (by rw [hh]) (by rw [ht]) (by rw [ht]) running fun silent => ?_⟩
  rwa [hp, LinkPort.sendingNotice_tick]

/-- A hardware reset leaves the link and the settings as at power-on (R148, R152, R167, R178, R179). -/
theorem State.hardwareReset_linkSame (s : State) (cause : ResetCause) (straps : BitVec 2) :
    State.reset.LinkSame (s.hardwareReset cause straps) := .frame rfl rfl rfl rfl

theorem LinkStep.linkLegal {s t : State} (m : LinkStep s t) (h : s.LinkLegal) : t.LinkLegal := by
  cases m with
  | same hs => exact h.kept hs.kept
  | ticks => exact h.tick
  | resets u cause straps => exact State.reset_linkLegal.kept (u.hardwareReset_linkSame cause straps).kept
  | fills hm =>
    have moved := hm.keeps (fun _ _ m => m.linkLegal) h
    unfold State.fillLine
    split
    · exact moved.boundary
    · exact moved

/-! ## The settings and the retry count (R174 to R176, R178, R179) -/

theorem State.settingsLegal_iff (s : State) :
    s.SettingsLegal ↔
      s.config.InRange ∧ (s.transmitter.ackTimer.isSome → s.handler.link = .up) ∧
        (s.handler.link ≠ .stalled → s.transmitter.retries ≤ 8) ∧ s.transmitter.retries ≤ 9 :=
  and_assoc.symm

theorem State.SettingsLegal.congr {s t : State} (h : s.SettingsLegal) (hc : s.config.InRange → t.config.InRange)
    (hl : t.handler.link = s.handler.link) (ha : t.transmitter.ackTimer.isSome → s.transmitter.ackTimer.isSome)
    (hr : t.transmitter.retries = s.transmitter.retries) : t.SettingsLegal := by
  rw [State.settingsLegal_iff] at *
  obtain ⟨hrange, hup, height, hnine⟩ := h
  exact ⟨hc hrange, fun h => hl ▸ hup (ha h), by rwa [hl, hr], by rwa [hr]⟩

/-- A retry count of 0 needs nothing more than the ranges and the ack timer's law. -/
theorem State.settingsLegal_of_zero {t : State} (hc : t.config.InRange)
    (ha : t.transmitter.ackTimer.isSome → t.handler.link = .up) (hr : t.transmitter.retries = 0) : t.SettingsLegal :=
  t.settingsLegal_iff.mpr ⟨hc, ha, by simp [hr], by simp [hr]⟩

theorem State.SettingsLegal.kept {s t : State} (h : s.SettingsLegal) (hk : s.LinkKept t) : t.SettingsLegal :=
  h.congr hk.settings (by rw [hk.handler]) (fun ha => by rwa [hk.transmitter] at ha) (by rw [hk.transmitter])

/-- The retry count passes its limit of at most 8 only on the way to STALLED (R174, R175). -/
theorem State.SettingsLegal.ackExpired {s : State} (h : s.SettingsLegal) (running : s.transmitter.ackTimer.isSome) :
    s.ackExpired.SettingsLegal := by
  rw [State.settingsLegal_iff] at h
  obtain ⟨hrange, hup, height, -⟩ := h
  have up := hup running
  have counted := height (by simp [up])
  obtain ⟨-, -, -, limit⟩ : linkConfigInRange s.config.link := hrange.2
  simp only [State.ackExpired]
  split
  · next hle =>
    have hnext : s.transmitter.retries + 1 ≤ 8 := hle.trans limit
    exact (State.settingsLegal_iff _).mpr ⟨hrange, nofun, fun _ => hnext, hnext.trans (by decide)⟩
  · exact (State.settingsLegal_iff _).mpr ⟨hrange, nofun, fun hs => absurd rfl hs, Nat.succ_le_succ counted⟩

theorem LinkMove.settingsLegal {s t : State} (m : LinkMove s t) (h : s.SettingsLegal) : t.SettingsLegal := by
  have hrange : s.config.InRange := (s.settingsLegal_iff.mp h).1
  cases m with
  | kept hk => exact h.kept hk
  | unstalls =>
    unfold State.unstall
    split
    · exact State.settingsLegal_of_zero hrange (fun _ => rfl) rfl
    · exact h
  | replies r restart room => exact h.congr id rfl id rfl
  | answers f r room up fresh => exact h.congr id rfl id rfl
  | acks i up =>
    obtain ⟨u, hk, hu⟩ := s.removeUpTo_link i
    rw [hu]
    refine State.settingsLegal_of_zero (hk.settings hrange) (fun _ => ?_) (congrArg Transmitter.retries hk.transmitter)
    exact (congrArg Handler.link hk.handler).trans up
  | expires running => exact h.ackExpired running
  | sessionEnds kept few =>
    obtain ⟨e, -⟩ := s.endSession_spec kept
    rw [e]
    exact State.settingsLegal_of_zero hrange nofun rfl
  | sessionStarts nonce down =>
    obtain ⟨-, -, height, hnine⟩ := s.settingsLegal_iff.mp h
    have hr : (s.startSession nonce).transmitter.retries = s.transmitter.retries := by
      rw [State.startSession_transmitter]
    have hc : (s.startSession nonce).config = s.config := (congrArg State.config (s.startSession_spec nonce).1 :)
    rw [State.settingsLegal_iff, State.startSession_handler, hr, hc]
    exact ⟨hrange, fun _ => rfl, fun _ => height (by simp [down]), hnine⟩
  | frees => exact h.congr id rfl id rfl
  | noticeEnds idle =>
    unfold State.noticeEnded
    split
    · next hstart =>
      obtain ⟨-, -, hretries⟩ := s.settingsLegal_iff.mp h
      exact (State.settingsLegal_iff _).mpr ⟨hrange, fun _ => hstart.1, hretries⟩
    · exact h

theorem State.SettingsLegal.boundary {s : State} (h : s.SettingsLegal) : s.boundary.SettingsLegal := by
  obtain ⟨q, rest, -, e⟩ | ⟨u, -, e⟩ | ⟨x, rest, -, -, e⟩ | e := s.boundary_cases
  · rw [e]; exact h.congr id rfl id rfl
  · rw [e]; exact h.congr id rfl nofun rfl
  · obtain ⟨hh, hc, ht⟩ := s.sendNotice_link x rest
    rw [e]
    exact h.congr (hc ▸ id) (by rw [hh]) (by rw [ht]; nofun) (by rw [ht])
  · rwa [e]

theorem LinkStep.settingsLegal {s t : State} (m : LinkStep s t) (h : s.SettingsLegal) : t.SettingsLegal := by
  cases m with
  | same hs => exact h.kept hs.kept
  | ticks =>
    obtain ⟨hh, hc, -, ht⟩ := s.tick_link
    exact h.congr (fun hr => by rwa [hc]) (by rw [hh]) (fun ha => by rwa [← s.tick_ackTimer]) (by rw [ht])
  | resets u cause straps => exact State.reset_settingsLegal.kept (u.hardwareReset_linkSame cause straps).kept
  | fills hm =>
    have moved := hm.keeps (fun _ _ m => m.settingsLegal) h
    unfold State.fillLine
    split
    · exact moved.boundary
    · exact moved

/-! ## No frame waits on an idle line (R164, R170; assumption log 12) -/

theorem State.NoFrameWaits.same {s t : State} (h : s.NoFrameWaits) (hs : s.LinkSame t) : t.NoFrameWaits :=
  s.noFrameWaits_congr t hs.sending hs.handler hs.transmitter h

theorem State.NoFrameWaits.tick {s : State} (h : s.NoFrameWaits) : s.tick.NoFrameWaits := by
  obtain ⟨hh, -, hp, ht⟩ := s.tick_link
  have hsending : s.tick.port.sending.isNone = s.port.sending.isNone := by simp [hp, LinkPort.tick]
  have hoffered : s.tick.noticeOffered = s.noticeOffered := by
    simp only [State.noticeOffered, Transmitter.anyDue, hh, ht]
  unfold State.NoFrameWaits State.boundaryDue at *
  rwa [hsending, hoffered, hh]

theorem LinkStep.noFrameWaits {s t : State} (m : LinkStep s t) (h : s.NoFrameWaits) : t.NoFrameWaits := by
  cases m with
  | same hs => exact h.same hs
  | ticks => exact h.tick
  | resets u cause straps =>
    have atReset : State.reset.NoFrameWaits := rfl
    exact atReset.same (u.hardwareReset_linkSame cause straps)
  | fills hm => exact State.fillLine_noFrameWaits _

/-- Settles O59: each law through what a step can do to the link. -/
theorem linkAndSettingsStayLegal : Obligations.LinkAndSettingsStayLegal := by
  refine ⟨fun s t h hstep => ?_, fun s t h hstep => ?_, fun s t h hstep => ?_, fun s h hfull => ?_⟩
  · exact step_keeps_link (fun _ _ hs h => h.kept hs.kept) (fun _ _ m => m.linkLegal) h hstep
  · exact step_keeps_link (fun _ _ hs h => h.kept hs.kept) (fun _ _ m => m.settingsLegal) h hstep
  · exact step_keeps_link (fun _ _ hs h => h.same hs) (fun _ _ m => m.noFrameWaits) h hstep
  · exact State.NoFrameWaits.busy_of_replies s h (List.ne_nil_of_length_pos (Nat.lt_of_lt_of_le (by decide) hfull))

end Sys2Proof.Machine
end

section
/-! PROOFS. The frame of a request with the link STALLED, a full reply queue, the link DOWN or a cached SEQ (R154 to R157,
R176; assumption log 10). -/

namespace Sys2Proof.Machine

open Sys2Proof.Claims

/-! ## What settles a request before it is executed (R154 steps 3, 5 and 6) -/

/-- Every form of request answers with the state of its settlement, where one of the steps settles it. -/
theorem exec_of_settled (c : Instr) (f : Frame) (s : State) (h : requestFrame? c = some f) :
    ∃ t, exec c s = .next t.fillLine ∧ ∀ u, (s.takeFrame f).settled? f = some u → t = u := by
  obtain ⟨good, serve, hexec⟩ | ⟨restart, hexec⟩ | ⟨-, hexec⟩ := exec_of_requestFrame c f h
  · refine ⟨s.request f good serve, (hexec s).1, fun u hu => ?_⟩
    simp only [State.request, hu]
  · refine ⟨s.requestEnd f restart, (hexec s).1, fun u hu => ?_⟩
    simp only [State.requestEnd, hu]
  · refine ⟨s.requestUnknown f, hexec s, fun u hu => ?_⟩
    simp only [State.requestUnknown, hu]

/-- Settles the first part of O16: one clause for each step that can settle the frame. -/
theorem requestsAreSettledFirst : Claims.RequestsAreSettledFirst := by
  intro c f s hc hl u
  obtain ⟨t, hexec, hsettled⟩ := exec_of_settled c f s hc
  have hhandler : u.handler = s.handler := by simp [u]
  rw [s.takeFrame_eq f hl] at hsettled
  refine ⟨t, hexec, fun hfull => ?_, fun room down => ?_, fun room up pre e post hcache he hpre => ?_⟩
  · exact hsettled _ (u.settled?_full f (hhandler ▸ hfull))
  · exact hsettled _ (u.settled?_down f (hhandler ▸ room) (hhandler ▸ down))
  · have cached := u.cached?_some f.seq pre post e (hhandler ▸ hcache) he hpre
    exact hsettled _ (u.settled?_cached f e.reply (hhandler ▸ room) (hhandler ▸ up) cached)

/-- Settles the second part of O16 (assumption log 10). -/
theorem frameLeavesArrivals : Claims.FrameLeavesArrivals := by
  refine fun s f => ⟨fun rest h => ?_, fun h => ?_⟩
  · rw [State.popArrival_eq, h]
    simp [State.setPort]
  · rw [State.popArrival_eq, if_neg h]
    rfl

/-- Settles O16. -/
theorem requestsSettledBeforeExecution : Obligations.RequestsSettledBeforeExecution :=
  ⟨requestsAreSettledFirst, frameLeavesArrivals⟩

/-! ## The end of a stall (R154 step 1, R176) -/

/-- Every command that brings a frame decides on the state in which the frame has been taken. -/
theorem exec_congr_takeFrame (c : Instr) (f : Frame) (s t : State) (hc : arrivingFrame? c = some f)
    (h : s.takeFrame f = t.takeFrame f) : exec c s = exec c t := by
  have request (hr : requestFrame? c = some f) : exec c s = exec c t := by
    obtain ⟨good, serve, hexec⟩ | ⟨restart, hexec⟩ | ⟨-, hexec⟩ := exec_of_requestFrame c f hr
    · rw [(hexec s).1, (hexec t).1, State.request, h, ← State.request]
    · rw [(hexec s).1, (hexec t).1, State.requestEnd, h, ← State.requestEnd]
    · rw [hexec s, hexec t, State.requestUnknown, h, ← State.requestUnknown]
  cases c with
  | openSession q p =>
    obtain rfl := Option.some.inj hc
    exact congrArg (fun u : State => Host.Outcome.next u.fillLine)
      (by rw [State.requestOpen, h, ← State.requestOpen] : s.requestOpen ⟨0x01, q, p⟩ = t.requestOpen ⟨0x01, q, p⟩)
  | ack q p =>
    obtain rfl := Option.some.inj hc
    exact congrArg (fun u : State => Host.Outcome.next u.fillLine)
      (by rw [State.requestAck, h, ← State.requestAck] : s.requestAck ⟨0x05, q, p⟩ = t.requestAck ⟨0x05, q, p⟩)
  | _ => exact request hc

/-- Settles O17: the frame taken from STALLED is the frame taken from UP with every entry due. -/
theorem firstFrameEndsStall : Obligations.FirstFrameEndsStall := fun c f s hc hl =>
  exec_congr_takeFrame c f s _ hc (s.takeFrame_stalled f hl)

end Sys2Proof.Machine
end

section
/-! PROOFS. The frame search of the Link Port, one byte a step: whole frames, incomplete candidates, and candidates that are
discarded (R149 to R151, R186). -/

namespace Sys2Proof.Machine

open Sys2Proof.Claims

/-! ## What a search leaves in the state -/

/-- A search that settles nothing changes the buffer and the gap timer. -/
theorem State.takeSearch_nothing (s : State) (l : List Byte) :
    s.takeSearch ⟨[], 0, l⟩ =
      { s with port := { s.port with buffer := l, gapTimer := if l.isEmpty then none else some (ms 5) } } := by
  simp [State.takeSearch, State.setPort, State.setDeviceCounters, DeviceCounters.accept, DeviceCounters.discard,
    repeat_zero, gapTime]

/-- A search that finds one frame and nothing else. -/
theorem State.takeSearch_frame (s : State) (f : Frame) :
    s.takeSearch ⟨[f], 0, []⟩ =
      { s with
        port := { s.port with buffer := [], gapTimer := none, arrivals := s.port.arrivals ++ [f] },
        counters := { s.counters with device := framesCounted s.counters.device 1 0 } } := rfl

/-- A byte received is searched with the bytes held (R149). -/
theorem exec_linkRxByte (c : Byte) (s : State) :
    exec (.linkRxByte c) s = .next (s.takeSearch (searchAll (s.port.buffer ++ [c]))) := by
  rw [← search_eq_searchAll (s.port.buffer.length + 1) _ (by simp)]
  rfl

/-! ## A frame byte by byte (R149 to R151, R186) -/

theorem searchAll_frame (f : Frame) (h : f.payload.length ≤ 250) : searchAll f.bytes = ⟨[f], 0, []⟩ := by
  rw [← search_frame f h f.bytes.length, search_eq_searchAll _ _ (Nat.le_add_right _ _)]

/-- Settles O46: the bytes so far are part of the frame, or the whole of it. -/
theorem frameIsReceivedByteByByte : Obligations.FrameIsReceivedByteByByte := by
  intro f before c after s hlen hbytes hbuffer
  rw [exec_linkRxByte, hbuffer]
  refine ⟨fun hafter => ?_, fun hafter => ?_⟩
  · have held : searchAll (before ++ [c]) = ⟨[], 0, before ++ [c]⟩ := by
      rw [← search_eq_searchAll ((before ++ [c]).length + 1) _ (Nat.le_succ _)]
      exact search_part f hlen (before ++ [c]) after hafter (by simp [hbytes]) (by simp) _
    rw [held, State.takeSearch_nothing]
    simp
  · have whole : before ++ [c] = f.bytes := by rw [hbytes, hafter]
    rw [whole, searchAll_frame f hlen, State.takeSearch_frame]

/-! ## Candidates (R149 to R151) -/

/-- The search through a SYNC and what follows it, by the LEN and the CRC (R149, R150). -/
theorem searchAll_sync (len : Byte) (t : List Byte) :
    searchAll (0x5A :: len :: t) =
      if len.toNat < 2 ∨ 252 < len.toNat then (searchAll (len :: t)).discarding
      else if t.length < len.toNat + 2 then ⟨[], 0, 0x5A :: len :: t⟩
      else if two (crc16 (len :: t.take len.toNat)) = (t.drop len.toNat).take 2 then
        (searchAll (t.drop (len.toNat + 2))).accepting (frameOf (t.take len.toNat))
      else (searchAll (len :: t)).discarding := by
  rw [searchAll_eq, fromSync_sync 0x5A _ rfl]

/-- Bytes that leave the candidate incomplete are all held: a SYNC, with a LEN in range, with fewer bytes than the LEN asks
for (R149). -/
theorem searchAll_incomplete (len : Byte) (t : List Byte) (hlo : 2 ≤ len.toNat) (hhi : len.toNat ≤ 252)
    (ht : t.length < len.toNat + 2) : searchAll (0x5A :: len :: t) = ⟨[], 0, 0x5A :: len :: t⟩ := by
  rw [searchAll_sync, if_neg (by omega), if_pos ht]

theorem searchAll_badLength (len : Byte) (t : List Byte) (h : len.toNat < 2 ∨ 252 < len.toNat) :
    searchAll (0x5A :: len :: t) = (searchAll (len :: t)).discarding := by
  rw [searchAll_sync, if_pos h]

/-- The two bytes after the body are not its CRC (R150, R186). -/
theorem searchAll_badCrc (len high low : Byte) (body : List Byte) (hlo : 2 ≤ len.toNat) (hhi : len.toNat ≤ 252)
    (hbody : body.length = len.toNat) (hcrc : word high low ≠ crc16 (len :: body)) :
    searchAll (0x5A :: len :: (body ++ [high, low])) = (searchAll (len :: (body ++ [high, low]))).discarding := by
  have htake : (body ++ [high, low]).take len.toNat = body := List.take_left' hbody
  have hdrop : (body ++ [high, low]).drop len.toNat = [high, low] := List.drop_left' hbody
  have hwrong : two (crc16 (len :: body)) ≠ [high, low] := by
    intro h
    obtain ⟨rfl, rfl⟩ : hi (crc16 (len :: body)) = high ∧ lo (crc16 (len :: body)) = low := by simpa [two] using h
    exact hcrc (word_hi_lo _)
  rw [searchAll_sync, if_neg (by omega), if_neg (by simp; omega), htake, hdrop]
  exact if_neg hwrong

/-- A byte that leaves the candidate incomplete joins it, and the gap timer starts again (R149, R151). -/
theorem exec_linkRxByte_held (c : Byte) (s : State)
    (h : searchAll (s.port.buffer ++ [c]) = ⟨[], 0, s.port.buffer ++ [c]⟩) :
    exec (.linkRxByte c) s =
      .next { s with port := { s.port with buffer := s.port.buffer ++ [c], gapTimer := some (ms 5) } } := by
  rw [exec_linkRxByte, h, State.takeSearch_nothing]
  simp

/-- After a byte that discards the candidate, the bytes held after its SYNC arrive again (R149). -/
theorem exec_linkRxByte_discards (c : Byte) (s : State) (l : List Byte)
    (h : searchAll (s.port.buffer ++ [c]) = (searchAll l).discarding) :
    ∃ t, exec (.linkRxByte c) s = .next t ∧ Arrives l (searching s) t := by
  refine ⟨_, exec_linkRxByte c s, ?_⟩
  rw [h]
  exact s.arrives_again l

/-- Settles O47: a byte outside a candidate, one that leaves the candidate incomplete, and the three ways to discard it. -/
theorem discardedCandidateIsSearchedAgain : Obligations.DiscardedCandidateIsSearchedAgain := by
  refine fun s c => ⟨fun hb hc => ?passed_over, ?joins, fun hb hc => ?bad_length,
    fun len high body hb hlo hhi hbody hcrc => ?bad_crc, fun l hgap hb => ?gap⟩
  case passed_over =>
    have nothing : searchAll (s.port.buffer ++ [c]) = ⟨[], 0, []⟩ := by
      have hnone : fromSync [c] = [] := by simpa [fromSync] using hc
      rw [hb, List.nil_append, searchAll_eq, hnone]
    rw [exec_linkRxByte, nothing, State.takeSearch_nothing, ← hb]
    simp [hb]
  case joins =>
    intro h
    refine exec_linkRxByte_held c s ?_
    obtain ⟨hb, rfl⟩ | ⟨hb, hlo, hhi⟩ | ⟨len, body, hb, hlo, hhi, hbody⟩ := h
    · rw [hb]; rfl
    · rw [hb]; exact searchAll_incomplete c [] hlo hhi (by simp)
    · rw [hb]; exact searchAll_incomplete len (body ++ [c]) hlo hhi (by simpa using hbody)
  case bad_length =>
    refine exec_linkRxByte_discards c s [c] ?_
    rw [hb]
    exact searchAll_badLength c [] hc
  case bad_crc =>
    refine exec_linkRxByte_discards c s (len :: body ++ [high, c]) ?_
    rw [hb]
    simpa using searchAll_badCrc len high c body hlo hhi hbody hcrc
  case gap =>
    have discards : exec .gapExpiry s = .next s.discardGap := congrArg Host.Outcome.next (if_pos hgap)
    have again : s.discardGap = s.takeSearch (searchAll l).discarding := by
      rw [State.discardGap, hb, search_eq_searchAll _ _ (by simp)]
      rfl
    exact ⟨_, discards, again ▸ s.arrives_again l⟩

end Sys2Proof.Machine
end


section
/-! PROOFS. The expiry of the ack timer: another try for every unacknowledged entry, or a stalled link (R174, R175). -/

namespace Sys2Proof.Machine

/-- A try within the retry limit marks every entry due (R174). -/
theorem State.ackExpired_retries (s : State)
    (h : s.transmitter.retries + 1 ≤ s.config.link.retryLimit.toNat) :
    s.ackExpired =
      { s with transmitter := { s.transmitter with
          retries := s.transmitter.retries + 1, ackTimer := none,
          unacked := s.transmitter.unacked.map fun x => { x with due := true } } } := if_pos h

/-- Above the retry limit the link is STALLED, and no entry is marked (R175). -/
theorem State.ackExpired_stalls (s : State)
    (h : ¬s.transmitter.retries + 1 ≤ s.config.link.retryLimit.toNat) :
    s.ackExpired =
      { s with
        handler := { s.handler with link := .stalled },
        transmitter := { s.transmitter with retries := s.transmitter.retries + 1, ackTimer := none } } := if_neg h

/-- A running ack timer expires, and an idle LINK_TX then takes the frame that waits (R164). -/
theorem exec_ackTimerExpiry_running (s : State) (running : s.transmitter.ackTimer.isSome) :
    exec .ackTimerExpiry s = .next s.ackExpired.fillLine :=
  congrArg Host.Outcome.next (if_pos running)

/-- Settles O51: a retry within the limit, and the stall above it. -/
theorem ackExpiryRetriesOrStalls : Obligations.AckExpiryRetriesOrStalls := by
  intro s running again t
  have expired : s.ackExpired = t := by
    by_cases h : again
    · rw [s.ackExpired_retries h]; simp [t, h]
    · rw [s.ackExpired_stalls h]; simp [t, h]
  rw [exec_ackTimerExpiry_running s running, expired]

end Sys2Proof.Machine
end


section
/-! PROOFS. GET-COUNTERS: the refusals, the bytes of a bay or of the device, and the clear flag (R183 to R185, R191, R192). -/

namespace Sys2Proof.Machine

open Sys2Proof.Claims

/-! ## The counters of a source (R184) -/

theorem bayOfSource?_baySource (b : BayNo) : bayOfSource? (baySource b) = some b := dif_pos b.isLt

theorem State.counterBytes_baySource (s : State) (b : BayNo) :
    s.counterBytes (baySource b) = (s.bayCounters b).bytes := by
  simp only [State.counterBytes, bayOfSource?_baySource]

theorem State.counterBytes_deviceSource (s : State) : s.counterBytes deviceSource = s.counters.device.bytes := rfl

theorem State.clearCounters_baySource (s : State) (b : BayNo) :
    s.clearCounters (baySource b) = s.setBayCounters b ⟨0, 0, 0, 0, 0⟩ := by
  simp only [State.clearCounters, bayOfSource?_baySource, BayCounters.zero]

theorem State.clearCounters_deviceSource (s : State) :
    s.clearCounters deviceSource = s.setDeviceCounters ⟨0, 0, 0, 0, 0, 0⟩ := rfl

/-- An accepted frame that leaves the Link Port leaves the counters as they stand. -/
theorem State.counterBytes_popArrival (s : State) (f : Frame) (n : SourceNo) :
    (s.popArrival f).counterBytes n = s.counterBytes n := by simp [State.counterBytes]

/-! ## What GET-COUNTERS answers (R185, R191) -/

/-- A source above 8, or a flag that is neither 0 nor 1. -/
theorem State.serveGetCounters_refused (s : State) (src flag : Byte) (h : 9 ≤ src.toNat ∨ 2 ≤ flag.toNat) :
    s.serveGetCounters [src, flag] = s.refused .badArgument := by
  simp only [State.serveGetCounters, byteAt, List.getD_cons_zero, List.getD_cons_succ]
  rcases h with hsrc | hflag
  · simp only [sourceOf?_none src hsrc]
  · have not_read : flag ≠ 0x00 := by rintro rfl; exact absurd hflag (by decide)
    have not_clear : flag ≠ 0x01 := by rintro rfl; exact absurd hflag (by decide)
    simp only [if_neg not_read, if_neg not_clear]
    split <;> rfl

/-- Flag 0 reads the counters and leaves them. -/
theorem State.serveGetCounters_reads (s : State) (src : Byte) (n : SourceNo) (hn : n.val = src.toNat) :
    s.serveGetCounters [src, 0x00] = (s, .ok, src :: s.counterBytes n) := by
  simp only [State.serveGetCounters, byteAt, List.getD_cons_zero, List.getD_cons_succ, sourceOf?_some src n hn, if_true]

/-- Flag 1 reports the counters as they stood before it clears them. -/
theorem State.serveGetCounters_clears (s : State) (src : Byte) (n : SourceNo) (hn : n.val = src.toNat) :
    s.serveGetCounters [src, 0x01] = (s.clearCounters n, .ok, src :: s.counterBytes n) := by
  simp only [State.serveGetCounters, byteAt, List.getD_cons_zero, List.getD_cons_succ, sourceOf?_some src n hn]
  rfl

/-- The state that a GET-COUNTERS of two payload bytes leaves, before an idle LINK_TX takes the frame that waits. -/
def State.afterGetCounters (s : State) (q src flag : Byte) : State :=
  s.request ⟨0x1C, q, [src, flag]⟩ true fun t => t.serveGetCounters [src, flag]

theorem exec_getCounters (q src flag : Byte) (s : State) :
    exec (.getCounters q [src, flag]) s = .next (s.afterGetCounters q src flag).fillLine := rfl

theorem State.afterGetCounters_refused (s : State) (q src flag : Byte) (hx : Executes s ⟨0x1C, q, [src, flag]⟩)
    (h : 9 ≤ src.toNat ∨ 2 ≤ flag.toNat) :
    AnsweredFrom (s.popArrival ⟨0x1C, q, [src, flag]⟩) (s.afterGetCounters q src flag) ⟨0x1C, q, [src, flag]⟩ 0x13 [] :=
  s.request_answered _ _ _ hx .badArgument [] (State.serveGetCounters_refused _ src flag h) (.inr rfl)

/-- A source of the nine, by the flag: the reply is the same, and only flag 1 clears the source's counters. -/
theorem State.afterGetCounters_answered (s : State) (q src flag : Byte) (n : SourceNo)
    (hx : Executes s ⟨0x1C, q, [src, flag]⟩) (hn : n.val = src.toNat) :
    let f : Frame := ⟨0x1C, q, [src, flag]⟩
    let s1 := s.popArrival f
    let t := s.afterGetCounters q src flag
    (flag = 0x00 → AnsweredFrom s1 t f 0x00 (src :: s.counterBytes n)) ∧
      (flag = 0x01 → AnsweredFrom (s1.clearCounters n) t f 0x00 (src :: s.counterBytes n)) := by
  intro f s1 t
  have unmoved : s1.counterBytes n = s.counterBytes n := s.counterBytes_popArrival f n
  rw [← unmoved]
  constructor
  · rintro rfl
    exact s.request_answered s1 f _ hx .ok _ (s1.serveGetCounters_reads src n hn) (.inl rfl)
  · rintro rfl
    exact s.request_answered _ f _ hx .ok _ (s1.serveGetCounters_clears src n hn) (.inl rfl)

/-- Settles O45: the arguments are refused, or the source is a bay or the device. -/
theorem countersAreReportedAndCleared : Obligations.CountersAreReportedAndCleared := by
  intro q src flag s f s1 hx
  refine ⟨s.afterGetCounters q src flag, exec_getCounters q src flag s, s.afterGetCounters_refused q src flag hx,
    fun b hb => ?_, fun hdev => ?_⟩
  · obtain ⟨reads, clears⟩ := s.afterGetCounters_answered q src flag (baySource b) hx hb.symm
    rw [s.counterBytes_baySource] at reads clears
    rw [State.clearCounters_baySource] at clears
    exact ⟨reads, clears⟩
  · obtain ⟨reads, clears⟩ := s.afterGetCounters_answered q src flag deviceSource hx (by rw [hdev]; rfl)
    rw [s.counterBytes_deviceSource] at reads clears
    rw [State.clearCounters_deviceSource] at clears
    exact ⟨reads, clears⟩

end Sys2Proof.Machine
end


section
/-! PROOFS. The step on a queue that holds a command: the command at the front is run on the state with the queue's rest;
the step on an empty queue is `step_of_queue_empty`. -/

namespace Sys2Proof.Machine

theorem step_of_queue_cons {s : State} {c : Instr} {rest : List Instr} (h : s.pending = c :: rest) :
    step s = exec c { s with pending := rest } := by
  rw [step, h]

/-- Settles O1: `step_of_queue_cons` at a state whose queue is the command and the rest; what the queue was before is
overwritten on both sides. -/
theorem stepRunsFrontCommand : Obligations.StepRunsFrontCommand := by
  intro c rest s
  have front : { s with pending := c :: rest }.pending = c :: rest := rfl
  exact step_of_queue_cons front

end Sys2Proof.Machine
end
